-- ==== Sys2Proof/Word.lean ====
section
/-! DEFINITION. The words of the block: the 16-bit vector, the 6-bit control word, and the byte of the
harness's encoded trace. -/

namespace Sys2Proof

/-- A 16-bit vector; bit 0 is the least significant, bit 15 the sign (spec 00_scope.md R9, 20_memory.md R51). -/
abbrev Word := BitVec 16

/-- The ALU control word `ctl[5:0]`, numbered zx nx zy ny f no from bit 5 down (30_encoding.md R71). -/
abbrev Ctl := BitVec 6

/-- One byte of the encoded trace; the block itself has no bytes (R52), the harness's notation does. -/
abbrev Byte := BitVec 8

/-- The constant-zero vector, the block's only constant (R10, R75). -/
def zero16 : Word := 0#16

end Sys2Proof
end

