-- ==== Sys2Proof/Config.lean ====
section
/-! DEFINITION. What one construction of the enclosing circuit fixes: the open parameters of 00_scope.md
rule R8. Counts are plain numbers; the content of a Bit after construction is a free value without a body. -/

namespace Sys2Proof

/-- The parameters of a circuit that are numbers (R8, D3, D23: OPEN). They are arguments: of construction, of
well-formedness, and fields of every state (State.circuit). -/
structure Circuit where
  /-- `NREG`, the number of Register elements. -/
  nreg : Nat
  /-- The number of free-standing Bits. -/
  nbit : Nat
  /-- `NALU`, the number of ALUs. -/
  nalu : Nat
  /-- `SLOTS`: a forwarding pair names a slot index below it (30_encoding.md R80). -/
  slots : Nat
deriving DecidableEq, Repr

/-- The circuit that State.reset constructs. DESIGN CHOICE (logs 1, 2): all the elements and slots a trace's bytes can
name. -/
def Config.circuit : Circuit := ⟨256, 256, 256, 65536⟩

/-- `RESET_CUR(r, i)` is bit `i` of `resetCur r`: arbitrary, fixed at construction (R34, D4: OPEN).
A FREE VALUE: no body, so no proof can know it (log 3). -/
opaque Config.resetCur : Nat → Word

/-- `RESET_CUR(b)` of the free-standing Bit `b` (R34, D4: OPEN). A FREE VALUE (log 3). -/
opaque Config.resetBit : Nat → Bool

end Sys2Proof
end

