-- ==== Sys2Proof/Signal.lean ====
section
/-! DEFINITION. The value on a wire, and the names of the ports it can stand on. -/

namespace Sys2Proof

/-- A Signal: exactly three variants (10_state.md R20). `invalid` is an undriven wire, never read as 0 (R21). -/
inductive Sig where
  /-- `Invalid`, the uninitialized sentinel. -/
  | invalid
  /-- `S(b)`, one bit. -/
  | bit (b : Bool)
  /-- `V(w)`, sixteen bits. -/
  | word (w : Word)
deriving DecidableEq, Repr

/-- The input ports of all elements (30_encoding.md R74); an error carries one of these names (R205). -/
inductive Port where
  | a | b | sel
  | in0 | in1 | in2 | in3 | in4 | in5 | in6 | in7
  | input | loadEnable | word
  | x | y | zx | nx | zy | ny | f | no
deriving DecidableEq, Repr

/-- The output ports (R74): every element has `out`; the ALU has `zr` and `ng` besides. -/
inductive OutPort where
  | out | zr | ng
deriving DecidableEq, Repr

/-- The forwarding pair of Register.Update: an opaque channel name and a slot index (R74, R80, R127). -/
structure Fwd where
  chan : Nat
  slot : Nat
deriving DecidableEq, Repr

end Sys2Proof
end

