-- ==== Sys2Proof/Syntax.lean ====
section
/-! DEFINITION. The operations of the block, one constructor per row of spec/opcode_table.json. -/

namespace Sys2Proof

/-- An operation with the Signals on its ports. `none` on a port says that the harness supplies nothing there:
for a gate, Bit or Register that is `Invalid` on the port (R90), for an ALU operand the latch keeps its Signal (R29).
An ALU row drives the six flag ports with its control word; `a` is the ALU, `r` the Register, `b` the Bit it addresses. -/
inductive Instr where
  /-- `ALU.ZERO`, control word 101010, out = 0 (R161). -/
  | aluZero (a : Nat) (x y : Option Sig)
  /-- `ALU.ONE`, control word 111111, out = 1 (R162). -/
  | aluOne (a : Nat) (x y : Option Sig)
  /-- `ALU.NEG1`, control word 111010, out = -1 (R163). -/
  | aluNeg1 (a : Nat) (x y : Option Sig)
  /-- `ALU.X`, control word 001100, out = x (R164). -/
  | aluX (a : Nat) (x y : Option Sig)
  /-- `ALU.Y`, control word 110000, out = y (R165). -/
  | aluY (a : Nat) (x y : Option Sig)
  /-- `ALU.NOTX`, control word 001101, out = !x (R166). -/
  | aluNotx (a : Nat) (x y : Option Sig)
  /-- `ALU.NOTY`, control word 110001, out = !y (R167). -/
  | aluNoty (a : Nat) (x y : Option Sig)
  /-- `ALU.NEGX`, control word 001111, out = -x (R168). -/
  | aluNegx (a : Nat) (x y : Option Sig)
  /-- `ALU.NEGY`, control word 110011, out = -y (R169). -/
  | aluNegy (a : Nat) (x y : Option Sig)
  /-- `ALU.INCX`, control word 011111, out = x+1 (R170). -/
  | aluIncx (a : Nat) (x y : Option Sig)
  /-- `ALU.INCY`, control word 110111, out = y+1 (R171). -/
  | aluIncy (a : Nat) (x y : Option Sig)
  /-- `ALU.DECX`, control word 001110, out = x-1 (R172). -/
  | aluDecx (a : Nat) (x y : Option Sig)
  /-- `ALU.DECY`, control word 110010, out = y-1 (R173). -/
  | aluDecy (a : Nat) (x y : Option Sig)
  /-- `ALU.ADD`, control word 000010, out = x+y (R174). -/
  | aluAdd (a : Nat) (x y : Option Sig)
  /-- `ALU.SUBXY`, control word 010011, out = x-y (R175). -/
  | aluSubxy (a : Nat) (x y : Option Sig)
  /-- `ALU.SUBYX`, control word 000111, out = y-x (R176). -/
  | aluSubyx (a : Nat) (x y : Option Sig)
  /-- `ALU.ANDXY`, control word 000000, out = x&y (R177). -/
  | aluAndxy (a : Nat) (x y : Option Sig)
  /-- `ALU.ORXY`, control word 010101, out = x|y (R178). -/
  | aluOrxy (a : Nat) (x y : Option Sig)
  /-- `ALU.C000001`, control word 000001, out = !(x&y) (R179). -/
  | aluC000001 (a : Nat) (x y : Option Sig)
  /-- `ALU.C000011`, control word 000011, out = -x-y-1 (R179). -/
  | aluC000011 (a : Nat) (x y : Option Sig)
  /-- `ALU.C000100`, control word 000100, out = x&!y (R179). -/
  | aluC000100 (a : Nat) (x y : Option Sig)
  /-- `ALU.C000101`, control word 000101, out = !x|y (R179). -/
  | aluC000101 (a : Nat) (x y : Option Sig)
  /-- `ALU.C000110`, control word 000110, out = x-y-1 (R179). -/
  | aluC000110 (a : Nat) (x y : Option Sig)
  /-- `ALU.C001000`, control word 001000, out = 0 (R179). -/
  | aluC001000 (a : Nat) (x y : Option Sig)
  /-- `ALU.C001001`, control word 001001, out = -1 (R179). -/
  | aluC001001 (a : Nat) (x y : Option Sig)
  /-- `ALU.C001010`, control word 001010, out = x (R179). -/
  | aluC001010 (a : Nat) (x y : Option Sig)
  /-- `ALU.C001011`, control word 001011, out = !x (R179). -/
  | aluC001011 (a : Nat) (x y : Option Sig)
  /-- `ALU.C010000`, control word 010000, out = !x&y (R179). -/
  | aluC010000 (a : Nat) (x y : Option Sig)
  /-- `ALU.C010001`, control word 010001, out = x|!y (R179). -/
  | aluC010001 (a : Nat) (x y : Option Sig)
  /-- `ALU.C010010`, control word 010010, out = y-x-1 (R179). -/
  | aluC010010 (a : Nat) (x y : Option Sig)
  /-- `ALU.C010100`, control word 010100, out = !(x|y) (R179). -/
  | aluC010100 (a : Nat) (x y : Option Sig)
  /-- `ALU.C010110`, control word 010110, out = -x-y-2 (R179). -/
  | aluC010110 (a : Nat) (x y : Option Sig)
  /-- `ALU.C010111`, control word 010111, out = x+y+1 (R179). -/
  | aluC010111 (a : Nat) (x y : Option Sig)
  /-- `ALU.C011000`, control word 011000, out = 0 (R179). -/
  | aluC011000 (a : Nat) (x y : Option Sig)
  /-- `ALU.C011001`, control word 011001, out = -1 (R179). -/
  | aluC011001 (a : Nat) (x y : Option Sig)
  /-- `ALU.C011010`, control word 011010, out = !x (R179). -/
  | aluC011010 (a : Nat) (x y : Option Sig)
  /-- `ALU.C011011`, control word 011011, out = x (R179). -/
  | aluC011011 (a : Nat) (x y : Option Sig)
  /-- `ALU.C011100`, control word 011100, out = !x (R179). -/
  | aluC011100 (a : Nat) (x y : Option Sig)
  /-- `ALU.C011101`, control word 011101, out = x (R179). -/
  | aluC011101 (a : Nat) (x y : Option Sig)
  /-- `ALU.C011110`, control word 011110, out = -x-2 (R179). -/
  | aluC011110 (a : Nat) (x y : Option Sig)
  /-- `ALU.C100000`, control word 100000, out = 0 (R179). -/
  | aluC100000 (a : Nat) (x y : Option Sig)
  /-- `ALU.C100001`, control word 100001, out = -1 (R179). -/
  | aluC100001 (a : Nat) (x y : Option Sig)
  /-- `ALU.C100010`, control word 100010, out = y (R179). -/
  | aluC100010 (a : Nat) (x y : Option Sig)
  /-- `ALU.C100011`, control word 100011, out = !y (R179). -/
  | aluC100011 (a : Nat) (x y : Option Sig)
  /-- `ALU.C100100`, control word 100100, out = 0 (R179). -/
  | aluC100100 (a : Nat) (x y : Option Sig)
  /-- `ALU.C100101`, control word 100101, out = -1 (R179). -/
  | aluC100101 (a : Nat) (x y : Option Sig)
  /-- `ALU.C100110`, control word 100110, out = !y (R179). -/
  | aluC100110 (a : Nat) (x y : Option Sig)
  /-- `ALU.C100111`, control word 100111, out = y (R179). -/
  | aluC100111 (a : Nat) (x y : Option Sig)
  /-- `ALU.C101000`, control word 101000, out = 0 (R179). -/
  | aluC101000 (a : Nat) (x y : Option Sig)
  /-- `ALU.C101001`, control word 101001, out = -1 (R179). -/
  | aluC101001 (a : Nat) (x y : Option Sig)
  /-- `ALU.C101011`, control word 101011, out = -1 (R179). -/
  | aluC101011 (a : Nat) (x y : Option Sig)
  /-- `ALU.C101100`, control word 101100, out = 0 (R179). -/
  | aluC101100 (a : Nat) (x y : Option Sig)
  /-- `ALU.C101101`, control word 101101, out = -1 (R179). -/
  | aluC101101 (a : Nat) (x y : Option Sig)
  /-- `ALU.C101110`, control word 101110, out = -1 (R179). -/
  | aluC101110 (a : Nat) (x y : Option Sig)
  /-- `ALU.C101111`, control word 101111, out = 0 (R179). -/
  | aluC101111 (a : Nat) (x y : Option Sig)
  /-- `ALU.C110100`, control word 110100, out = !y (R179). -/
  | aluC110100 (a : Nat) (x y : Option Sig)
  /-- `ALU.C110101`, control word 110101, out = y (R179). -/
  | aluC110101 (a : Nat) (x y : Option Sig)
  /-- `ALU.C110110`, control word 110110, out = -y-2 (R179). -/
  | aluC110110 (a : Nat) (x y : Option Sig)
  /-- `ALU.C111000`, control word 111000, out = 0 (R179). -/
  | aluC111000 (a : Nat) (x y : Option Sig)
  /-- `ALU.C111001`, control word 111001, out = -1 (R179). -/
  | aluC111001 (a : Nat) (x y : Option Sig)
  /-- `ALU.C111011`, control word 111011, out = 0 (R179). -/
  | aluC111011 (a : Nat) (x y : Option Sig)
  /-- `ALU.C111100`, control word 111100, out = -1 (R179). -/
  | aluC111100 (a : Nat) (x y : Option Sig)
  /-- `ALU.C111101`, control word 111101, out = 0 (R179). -/
  | aluC111101 (a : Nat) (x y : Option Sig)
  /-- `ALU.C111110`, control word 111110, out = -2 (R179). -/
  | aluC111110 (a : Nat) (x y : Option Sig)
  /-- `BIT.HOLD`: Bit.Update with loadEnable = S(0) (R120, R72). -/
  | bitHold (b : Nat) (input : Option Sig)
  /-- `BIT.LOAD`: Bit.Update with loadEnable = S(1) (R120, R72). -/
  | bitLoad (b : Nat) (input : Option Sig)
  /-- `REG.HOLD`: Register.Update with loadEnable = S(0), optionally forwarding (R124, R127). -/
  | regHold (r : Nat) (word : Option Sig) (fwd : Option Fwd)
  /-- `REG.LOAD`: Register.Update with loadEnable = S(1), optionally forwarding (R124, R127). -/
  | regLoad (r : Nat) (word : Option Sig) (fwd : Option Fwd)
  /-- `BIT.TICK`: Bit.Tick of a free-standing Bit (R122). -/
  | bitTick (b : Nat)
  /-- `REG.TICK`: Register.Tick (R128). -/
  | regTick (r : Nat)
  /-- `NOT` (R91). -/
  | notGate (a : Option Sig)
  /-- `AND` (R92). -/
  | andGate (a b : Option Sig)
  /-- `OR` (R93). -/
  | orGate (a b : Option Sig)
  /-- `MUX` (R101). -/
  | muxGate (a b sel : Option Sig)
  /-- `NOT16` (R104). -/
  | not16 (a : Option Sig)
  /-- `AND16` (R105). -/
  | and16 (a b : Option Sig)
  /-- `MUX16` (R106). -/
  | mux16 (a b sel : Option Sig)
  /-- `ADD16` (R108). -/
  | add16 (a b : Option Sig)
  /-- `OR8WAY` (R110). -/
  | or8way (in0 in1 in2 in3 in4 in5 in6 in7 : Option Sig)
deriving DecidableEq, Repr

end Sys2Proof
end

