-- ==== Sys2Proof/Trace.lean ====
section
/-! DEFINITION. The lines of a harness trace (30_encoding.md R80, R81): which element the harness addresses and what it
puts on the ports. A line is what the harness writes; the operation (Instr) it issues is known once the Signals are. -/

namespace Sys2Proof

/-- Where one wire gets its Signal (R80, `sig`). `back` counts lines: 0 is the line just before this one (log 5). -/
inductive Src where
  /-- A Signal written out: `INV`, `b0`, `b1`, `0xhhhh`. -/
  | sig (s : Sig)
  /-- `name.port`: an output of an earlier line. -/
  | out (back : Nat) (port : OutPort)
  /-- `name.out[i]`: bit `i` of an earlier 16-bit output, as `S(bit)`. -/
  | bitOf (back : Nat) (i : Nat)
deriving DecidableEq, Repr

/-- What the line says of one port. -/
inductive Arg where
  /-- The line does not name the port (R29, R90). -/
  | absent
  /-- One source drives the port. -/
  | src (s : Src)
  /-- Sixteen one-bit sources, lane 0 first, bundled into a vector by wiring (20_memory.md R53). -/
  | bundle (lanes : List Src)
deriving DecidableEq, Repr

/-- One line: an Update with its arguments, a Tick of one element, or the global clock edge `TICK`. -/
inductive Line where
  | notGate (a : Arg)
  | andGate (a b : Arg)
  | orGate (a b : Arg)
  | muxGate (a b sel : Arg)
  | not16 (a : Arg)
  | and16 (a b : Arg)
  | mux16 (a b sel : Arg)
  | add16 (a b : Arg)
  | or8way (in0 in1 in2 in3 in4 in5 in6 in7 : Arg)
  /-- `BIT b (input, loadEnable)`: HOLD or LOAD by the Signal on loadEnable (R72). -/
  | bitUpdate (b : Nat) (input loadEnable : Arg)
  /-- `REG r (word, loadEnable [, fwd])` (R80). -/
  | regUpdate (r : Nat) (word loadEnable : Arg) (fwd : Option Fwd)
  /-- `ALU a (...)`: the option list, each of the eight ports named at most once (R141, D11). -/
  | aluUpdate (a : Nat) (x y zx nx zy ny f no : Arg)
  | bitTick (b : Nat)
  | regTick (r : Nat)
  /-- `TICK`: the global clock edge (R81, R239, R240). -/
  | tick
deriving DecidableEq, Repr

end Sys2Proof
end

