-- ==== Sys2Proof/WellFormed.lean ====
section
/-! DEFINITION. The checks an operation or a trace line must pass before a run (R74, R141: a malformed trace is
refused, not run): the element it names exists in the circuit, a forwarding pair names a slot below SLOTS, a bundle has
sixteen lanes, a bit index is below sixteen, a reference fits the trace encoding. -/

namespace Sys2Proof

/-- The forwarding pair, if there is one (R74: optional), names a slot below SLOTS (R80, D23). -/
def slotOk (slots : Nat) : Option Fwd → Bool
  | none => true
  | some f => decide (f.slot < slots)

/-- How many channel names the trace encoding can tell apart (R80: a channel name is opaque; log 2). -/
def maxChan : Nat := 256

/-- The slot is one of the circuit's, and the channel one the encoding can name. -/
def fwdWf (c : Circuit) (fwd : Option Fwd) : Bool :=
  slotOk c.slots fwd && fwd.all fun f => decide (f.chan < maxChan)

/-- The operation names elements of the circuit `c` and, if it forwards, a slot of it. -/
def Instr.wf (c : Circuit) : Instr → Bool
  | .aluZero a _ _ | .aluOne a _ _ | .aluNeg1 a _ _ | .aluX a _ _
  | .aluY a _ _ | .aluNotx a _ _ | .aluNoty a _ _ | .aluNegx a _ _
  | .aluNegy a _ _ | .aluIncx a _ _ | .aluIncy a _ _ | .aluDecx a _ _
  | .aluDecy a _ _ | .aluAdd a _ _ | .aluSubxy a _ _ | .aluSubyx a _ _
  | .aluAndxy a _ _ | .aluOrxy a _ _ | .aluC000001 a _ _ | .aluC000011 a _ _
  | .aluC000100 a _ _ | .aluC000101 a _ _ | .aluC000110 a _ _ | .aluC001000 a _ _
  | .aluC001001 a _ _ | .aluC001010 a _ _ | .aluC001011 a _ _ | .aluC010000 a _ _
  | .aluC010001 a _ _ | .aluC010010 a _ _ | .aluC010100 a _ _ | .aluC010110 a _ _
  | .aluC010111 a _ _ | .aluC011000 a _ _ | .aluC011001 a _ _ | .aluC011010 a _ _
  | .aluC011011 a _ _ | .aluC011100 a _ _ | .aluC011101 a _ _ | .aluC011110 a _ _
  | .aluC100000 a _ _ | .aluC100001 a _ _ | .aluC100010 a _ _ | .aluC100011 a _ _
  | .aluC100100 a _ _ | .aluC100101 a _ _ | .aluC100110 a _ _ | .aluC100111 a _ _
  | .aluC101000 a _ _ | .aluC101001 a _ _ | .aluC101011 a _ _ | .aluC101100 a _ _
  | .aluC101101 a _ _ | .aluC101110 a _ _ | .aluC101111 a _ _ | .aluC110100 a _ _
  | .aluC110101 a _ _ | .aluC110110 a _ _ | .aluC111000 a _ _ | .aluC111001 a _ _
  | .aluC111011 a _ _ | .aluC111100 a _ _ | .aluC111101 a _ _ | .aluC111110 a _ _ => decide (a < c.nalu)
  | .bitHold b _ | .bitLoad b _ | .bitTick b => decide (b < c.nbit)
  | .regHold r _ fwd | .regLoad r _ fwd => decide (r < c.nreg) && fwdWf c fwd
  | .regTick r => decide (r < c.nreg)
  | .notGate _ | .not16 _ => true
  | .andGate _ _ | .orGate _ _ | .and16 _ _ | .add16 _ _ => true
  | .muxGate _ _ _ | .mux16 _ _ _ => true
  | .or8way _ _ _ _ _ _ _ _ => true

/-- How far back, in lines, the trace encoding can refer (log 5). -/
def maxBack : Nat := 65536

/-- A wire source: a reference fits the encoding, a bit index is one of the sixteen (R20, R80). -/
def Src.wf : Src → Bool
  | .sig _ => true
  | .out back _ => decide (back < maxBack)
  | .bitOf back i => decide (back < maxBack) && decide (i < 16)

/-- A port's argument: a bundle has one source for each of the sixteen lanes (R53). -/
def Arg.wf : Arg → Bool
  | .absent => true
  | .src s => s.wf
  | .bundle lanes => decide (lanes.length = 16) && lanes.all Src.wf

/-- The largest circuit whose elements and slots a trace's bytes can name: an element's number is one byte, a slot's
two (log 5). The decoder, which sees no circuit, checks a line against it. -/
def Circuit.encodable : Circuit := ⟨256, 256, 256, 65536⟩

/-- Every check of a trace line in the circuit `c`. -/
def Line.wf (c : Circuit) : Line → Bool
  | .notGate a | .not16 a => a.wf
  | .andGate a b | .orGate a b | .and16 a b | .add16 a b => a.wf && b.wf
  | .muxGate a b sel | .mux16 a b sel => a.wf && b.wf && sel.wf
  | .or8way a0 a1 a2 a3 a4 a5 a6 a7 =>
    a0.wf && a1.wf && a2.wf && a3.wf && a4.wf && a5.wf && a6.wf && a7.wf
  | .bitUpdate b input loadEnable => decide (b < c.nbit) && input.wf && loadEnable.wf
  | .regUpdate r word loadEnable fwd =>
    decide (r < c.nreg) && word.wf && loadEnable.wf && fwdWf c fwd
  | .aluUpdate a x y zx nx zy ny f no =>
    decide (a < c.nalu) && x.wf && y.wf && zx.wf && nx.wf && zy.wf && ny.wf && f.wf && no.wf
  | .bitTick b => decide (b < c.nbit)
  | .regTick r => decide (r < c.nreg)
  | .tick => true

end Sys2Proof
end

