-- ==== Sys2Proof/Decode.lean ====
section
/-! DEFINITION. From bytes to a trace line and back, and from a control word to its operation. The block has no
instruction words (30_encoding.md R70): the byte form is the model's own (log 5), but its first byte carries the spec's
control bits in the spec's positions (R71, R72): 00cccccc is ALU.Update under `ctl` = cccccc, 0100000l and 0100001l are
Bit.Update and Register.Update under `loadEnable` = l; the other first bytes have no control bits (R73). -/

namespace Sys2Proof

/-- Why bytes are no trace line. -/
inductive DecodeError where
  /-- The bytes end inside a line. -/
  | truncated
  /-- The first byte selects no operation of any element. -/
  | badSelector (b : Byte)
  /-- The tag byte of an argument names no form. -/
  | badTag (t : Byte)
  /-- A byte the form leaves unused is not zero, or an enumeration is out of range. -/
  | reservedBits
  /-- The line reads well but fails Line.wf in the largest circuit the bytes can name. -/
  | notWellFormed
deriving DecidableEq, Repr

/-! ### Control words and rows (R76, R77, R179) -/

/-- The operation a control word selects: mask 0x3F, all six bits select, every word legal (R77, R78). -/
def aluOfCtl (c : Ctl) (a : Nat) (x y : Option Sig) : Instr :=
  match c.toNat with
  | 0 => .aluAndxy a x y
  | 1 => .aluC000001 a x y
  | 2 => .aluAdd a x y
  | 3 => .aluC000011 a x y
  | 4 => .aluC000100 a x y
  | 5 => .aluC000101 a x y
  | 6 => .aluC000110 a x y
  | 7 => .aluSubyx a x y
  | 8 => .aluC001000 a x y
  | 9 => .aluC001001 a x y
  | 10 => .aluC001010 a x y
  | 11 => .aluC001011 a x y
  | 12 => .aluX a x y
  | 13 => .aluNotx a x y
  | 14 => .aluDecx a x y
  | 15 => .aluNegx a x y
  | 16 => .aluC010000 a x y
  | 17 => .aluC010001 a x y
  | 18 => .aluC010010 a x y
  | 19 => .aluSubxy a x y
  | 20 => .aluC010100 a x y
  | 21 => .aluOrxy a x y
  | 22 => .aluC010110 a x y
  | 23 => .aluC010111 a x y
  | 24 => .aluC011000 a x y
  | 25 => .aluC011001 a x y
  | 26 => .aluC011010 a x y
  | 27 => .aluC011011 a x y
  | 28 => .aluC011100 a x y
  | 29 => .aluC011101 a x y
  | 30 => .aluC011110 a x y
  | 31 => .aluIncx a x y
  | 32 => .aluC100000 a x y
  | 33 => .aluC100001 a x y
  | 34 => .aluC100010 a x y
  | 35 => .aluC100011 a x y
  | 36 => .aluC100100 a x y
  | 37 => .aluC100101 a x y
  | 38 => .aluC100110 a x y
  | 39 => .aluC100111 a x y
  | 40 => .aluC101000 a x y
  | 41 => .aluC101001 a x y
  | 42 => .aluZero a x y
  | 43 => .aluC101011 a x y
  | 44 => .aluC101100 a x y
  | 45 => .aluC101101 a x y
  | 46 => .aluC101110 a x y
  | 47 => .aluC101111 a x y
  | 48 => .aluY a x y
  | 49 => .aluNoty a x y
  | 50 => .aluDecy a x y
  | 51 => .aluNegy a x y
  | 52 => .aluC110100 a x y
  | 53 => .aluC110101 a x y
  | 54 => .aluC110110 a x y
  | 55 => .aluIncy a x y
  | 56 => .aluC111000 a x y
  | 57 => .aluC111001 a x y
  | 58 => .aluNeg1 a x y
  | 59 => .aluC111011 a x y
  | 60 => .aluC111100 a x y
  | 61 => .aluC111101 a x y
  | 62 => .aluC111110 a x y
  | _ => .aluOne a x y

/-- The control word of six flags, first-listed flag most significant (R71). -/
def ctlOfFlags (zx nx zy ny f no : Bool) : Ctl :=
  BitVec.ofNat 6 (32 * zx.toNat + 16 * nx.toNat + 8 * zy.toNat + 4 * ny.toNat + 2 * f.toNat + no.toNat)

/-- Flag bits of a control word by position: 5 zx, 4 nx, 3 zy, 2 ny, 1 f, 0 no (R71). -/
def ctlFlag (c : Ctl) (position : Nat) : Bool := c.getLsbD position

/-! ### Operations as lines with every Signal written out -/

/-- A Signal written out, or the port left unnamed. -/
def Arg.ofSig : Option Sig → Arg
  | none => .absent
  | some s => .src (.sig s)

/-- The Signal of an argument that needs no earlier output; `none` if it does. -/
def Arg.literal : Arg → Option (Option Sig)
  | .absent => some none
  | .src (.sig s) => some (some s)
  | _ => none

/-- The argument `S(b)`. -/
def Arg.bit (b : Bool) : Arg := .src (.sig (.bit b))

/-- The bit an argument writes out, if it does. -/
def Arg.literalBit : Arg → Option Bool
  | .src (.sig (.bit b)) => some b
  | _ => none

/-- `ALU a (x=…, y=…, ctl=…)`: the control word stands for the six flag arguments (R80). -/
def aluLine (c : Ctl) (a : Nat) (x y : Option Sig) : Line :=
  .aluUpdate a (.ofSig x) (.ofSig y) (.bit (ctlFlag c 5)) (.bit (ctlFlag c 4)) (.bit (ctlFlag c 3))
    (.bit (ctlFlag c 2)) (.bit (ctlFlag c 1)) (.bit (ctlFlag c 0))

/-- The trace line that writes an operation out. -/
def Instr.toLine : Instr → Line
  | .aluZero a x y => aluLine 0b101010#6 a x y
  | .aluOne a x y => aluLine 0b111111#6 a x y
  | .aluNeg1 a x y => aluLine 0b111010#6 a x y
  | .aluX a x y => aluLine 0b001100#6 a x y
  | .aluY a x y => aluLine 0b110000#6 a x y
  | .aluNotx a x y => aluLine 0b001101#6 a x y
  | .aluNoty a x y => aluLine 0b110001#6 a x y
  | .aluNegx a x y => aluLine 0b001111#6 a x y
  | .aluNegy a x y => aluLine 0b110011#6 a x y
  | .aluIncx a x y => aluLine 0b011111#6 a x y
  | .aluIncy a x y => aluLine 0b110111#6 a x y
  | .aluDecx a x y => aluLine 0b001110#6 a x y
  | .aluDecy a x y => aluLine 0b110010#6 a x y
  | .aluAdd a x y => aluLine 0b000010#6 a x y
  | .aluSubxy a x y => aluLine 0b010011#6 a x y
  | .aluSubyx a x y => aluLine 0b000111#6 a x y
  | .aluAndxy a x y => aluLine 0b000000#6 a x y
  | .aluOrxy a x y => aluLine 0b010101#6 a x y
  | .aluC000001 a x y => aluLine 0b000001#6 a x y
  | .aluC000011 a x y => aluLine 0b000011#6 a x y
  | .aluC000100 a x y => aluLine 0b000100#6 a x y
  | .aluC000101 a x y => aluLine 0b000101#6 a x y
  | .aluC000110 a x y => aluLine 0b000110#6 a x y
  | .aluC001000 a x y => aluLine 0b001000#6 a x y
  | .aluC001001 a x y => aluLine 0b001001#6 a x y
  | .aluC001010 a x y => aluLine 0b001010#6 a x y
  | .aluC001011 a x y => aluLine 0b001011#6 a x y
  | .aluC010000 a x y => aluLine 0b010000#6 a x y
  | .aluC010001 a x y => aluLine 0b010001#6 a x y
  | .aluC010010 a x y => aluLine 0b010010#6 a x y
  | .aluC010100 a x y => aluLine 0b010100#6 a x y
  | .aluC010110 a x y => aluLine 0b010110#6 a x y
  | .aluC010111 a x y => aluLine 0b010111#6 a x y
  | .aluC011000 a x y => aluLine 0b011000#6 a x y
  | .aluC011001 a x y => aluLine 0b011001#6 a x y
  | .aluC011010 a x y => aluLine 0b011010#6 a x y
  | .aluC011011 a x y => aluLine 0b011011#6 a x y
  | .aluC011100 a x y => aluLine 0b011100#6 a x y
  | .aluC011101 a x y => aluLine 0b011101#6 a x y
  | .aluC011110 a x y => aluLine 0b011110#6 a x y
  | .aluC100000 a x y => aluLine 0b100000#6 a x y
  | .aluC100001 a x y => aluLine 0b100001#6 a x y
  | .aluC100010 a x y => aluLine 0b100010#6 a x y
  | .aluC100011 a x y => aluLine 0b100011#6 a x y
  | .aluC100100 a x y => aluLine 0b100100#6 a x y
  | .aluC100101 a x y => aluLine 0b100101#6 a x y
  | .aluC100110 a x y => aluLine 0b100110#6 a x y
  | .aluC100111 a x y => aluLine 0b100111#6 a x y
  | .aluC101000 a x y => aluLine 0b101000#6 a x y
  | .aluC101001 a x y => aluLine 0b101001#6 a x y
  | .aluC101011 a x y => aluLine 0b101011#6 a x y
  | .aluC101100 a x y => aluLine 0b101100#6 a x y
  | .aluC101101 a x y => aluLine 0b101101#6 a x y
  | .aluC101110 a x y => aluLine 0b101110#6 a x y
  | .aluC101111 a x y => aluLine 0b101111#6 a x y
  | .aluC110100 a x y => aluLine 0b110100#6 a x y
  | .aluC110101 a x y => aluLine 0b110101#6 a x y
  | .aluC110110 a x y => aluLine 0b110110#6 a x y
  | .aluC111000 a x y => aluLine 0b111000#6 a x y
  | .aluC111001 a x y => aluLine 0b111001#6 a x y
  | .aluC111011 a x y => aluLine 0b111011#6 a x y
  | .aluC111100 a x y => aluLine 0b111100#6 a x y
  | .aluC111101 a x y => aluLine 0b111101#6 a x y
  | .aluC111110 a x y => aluLine 0b111110#6 a x y
  | .bitHold b input => .bitUpdate b (.ofSig input) (.bit false)
  | .bitLoad b input => .bitUpdate b (.ofSig input) (.bit true)
  | .regHold r word fwd => .regUpdate r (.ofSig word) (.bit false) fwd
  | .regLoad r word fwd => .regUpdate r (.ofSig word) (.bit true) fwd
  | .bitTick b => .bitTick b
  | .regTick r => .regTick r
  | .notGate a => .notGate (.ofSig a)
  | .andGate a b => .andGate (.ofSig a) (.ofSig b)
  | .orGate a b => .orGate (.ofSig a) (.ofSig b)
  | .muxGate a b sel => .muxGate (.ofSig a) (.ofSig b) (.ofSig sel)
  | .not16 a => .not16 (.ofSig a)
  | .and16 a b => .and16 (.ofSig a) (.ofSig b)
  | .mux16 a b sel => .mux16 (.ofSig a) (.ofSig b) (.ofSig sel)
  | .add16 a b => .add16 (.ofSig a) (.ofSig b)
  | .or8way i0 i1 i2 i3 i4 i5 i6 i7 =>
    .or8way (.ofSig i0) (.ofSig i1) (.ofSig i2) (.ofSig i3) (.ofSig i4) (.ofSig i5) (.ofSig i6) (.ofSig i7)

/-- The control word that six flag arguments write out, if they all do. -/
def literalCtl (zx nx zy ny f no : Arg) : Option Ctl := do
  pure (ctlOfFlags (← zx.literalBit) (← nx.literalBit) (← zy.literalBit) (← ny.literalBit) (← f.literalBit)
    (← no.literalBit))

/-- The operation a line writes out, if nothing in it waits for an earlier output. -/
def Line.static : Line → Option Instr
  | .notGate a => do pure (.notGate (← a.literal))
  | .andGate a b => do pure (.andGate (← a.literal) (← b.literal))
  | .orGate a b => do pure (.orGate (← a.literal) (← b.literal))
  | .muxGate a b sel => do pure (.muxGate (← a.literal) (← b.literal) (← sel.literal))
  | .not16 a => do pure (.not16 (← a.literal))
  | .and16 a b => do pure (.and16 (← a.literal) (← b.literal))
  | .mux16 a b sel => do pure (.mux16 (← a.literal) (← b.literal) (← sel.literal))
  | .add16 a b => do pure (.add16 (← a.literal) (← b.literal))
  | .or8way i0 i1 i2 i3 i4 i5 i6 i7 => do
    pure (.or8way (← i0.literal) (← i1.literal) (← i2.literal) (← i3.literal) (← i4.literal) (← i5.literal)
      (← i6.literal) (← i7.literal))
  | .bitUpdate b input loadEnable => do
    let load ← loadEnable.literalBit
    let input ← input.literal
    pure (if load then .bitLoad b input else .bitHold b input)
  | .regUpdate r word loadEnable fwd => do
    let load ← loadEnable.literalBit
    let word ← word.literal
    pure (if load then .regLoad r word fwd else .regHold r word fwd)
  | .aluUpdate a x y zx nx zy ny f no => do
    pure (aluOfCtl (← literalCtl zx nx zy ny f no) a (← x.literal) (← y.literal))
  | .bitTick b => some (.bitTick b)
  | .regTick r => some (.regTick r)
  | .tick => none

/-! ### Reading bytes -/

/-- A 16-bit number, low byte first (log 5). -/
def num16 (lo hi : Byte) : Nat := lo.toNat + 256 * hi.toNat

/-- A source is four bytes: tag, detail, and a 16-bit number. -/
def srcOfBytes (tag detail lo hi : Byte) : Except DecodeError Src :=
  match tag.toNat with
  | 0 => if detail = 0#8 then .ok (.sig (.word (hi ++ lo))) else .error .reservedBits
  | 1 =>
    if lo = 0#8 ∧ hi = 0#8 ∧ detail.toNat < 2 then .ok (.sig (.bit (decide (detail = 1#8))))
    else .error .reservedBits
  | 2 => if detail = 0#8 ∧ lo = 0#8 ∧ hi = 0#8 then .ok (.sig .invalid) else .error .reservedBits
  | 3 =>
    match detail.toNat with
    | 0 => .ok (.out (num16 lo hi) .out)
    | 1 => .ok (.out (num16 lo hi) .zr)
    | 2 => .ok (.out (num16 lo hi) .ng)
    | _ => .error .reservedBits
  | 4 => .ok (.bitOf (num16 lo hi) detail.toNat)
  | _ => .error (.badTag tag)

/-- Reads one source. -/
def readSrc : List Byte → Except DecodeError (Src × List Byte)
  | tag :: detail :: lo :: hi :: rest => do
    let s ← srcOfBytes tag detail lo hi
    pure (s, rest)
  | _ => .error .truncated

/-- Reads `n` sources. -/
def readSrcs : Nat → List Byte → Except DecodeError ((List Src) × List Byte)
  | 0, bytes => .ok ([], bytes)
  | n + 1, bytes => do
    let (s, rest) ← readSrc bytes
    let (more, rest) ← readSrcs n rest
    pure (s :: more, rest)

/-- Reads one argument: tag 5 is an unnamed port, tag 6 a bundle of sixteen sources, any other a source. -/
def readArg : List Byte → Except DecodeError (Arg × List Byte)
  | tag :: detail :: lo :: hi :: rest =>
    match tag.toNat with
    | 5 => if detail = 0#8 ∧ lo = 0#8 ∧ hi = 0#8 then .ok (.absent, rest) else .error .reservedBits
    | 6 =>
      if detail = 0#8 ∧ lo = 0#8 ∧ hi = 0#8 then do
        let (lanes, rest) ← readSrcs 16 rest
        pure (.bundle lanes, rest)
      else .error .reservedBits
    | _ => do
      let s ← srcOfBytes tag detail lo hi
      pure (.src s, rest)
  | _ => .error .truncated

/-- Reads the number of an element. -/
def readElement : List Byte → Except DecodeError (Nat × List Byte)
  | n :: rest => .ok (n.toNat, rest)
  | [] => .error .truncated

/-- Reads the optional forwarding pair: a flag byte, the channel, the slot. -/
def readFwd : List Byte → Except DecodeError ((Option Fwd) × List Byte)
  | flag :: chan :: lo :: hi :: rest =>
    match flag.toNat with
    | 0 => if chan = 0#8 ∧ lo = 0#8 ∧ hi = 0#8 then .ok (none, rest) else .error .reservedBits
    | 1 => .ok (some ⟨chan.toNat, num16 lo hi⟩, rest)
    | _ => .error .reservedBits
  | _ => .error .truncated

/-- The rest of `ALU a (x, y, ctl)`. -/
def readAluRow (c : Ctl) (bytes : List Byte) : Except DecodeError (Line × List Byte) := do
  let (a, rest) ← readElement bytes
  let (x, rest) ← readArg rest
  let (y, rest) ← readArg rest
  pure (.aluUpdate a x y (.bit (ctlFlag c 5)) (.bit (ctlFlag c 4)) (.bit (ctlFlag c 3)) (.bit (ctlFlag c 2))
    (.bit (ctlFlag c 1)) (.bit (ctlFlag c 0)), rest)

/-- The rest of `ALU a (...)` with an argument for each of the six flags. -/
def readAluFree (bytes : List Byte) : Except DecodeError (Line × List Byte) := do
  let (a, rest) ← readElement bytes
  let (x, rest) ← readArg rest
  let (y, rest) ← readArg rest
  let (zx, rest) ← readArg rest
  let (nx, rest) ← readArg rest
  let (zy, rest) ← readArg rest
  let (ny, rest) ← readArg rest
  let (f, rest) ← readArg rest
  let (no, rest) ← readArg rest
  pure (.aluUpdate a x y zx nx zy ny f no, rest)

/-- The rest of a Bit's Update under a written-out `loadEnable`. -/
def readBitRow (load : Bool) (bytes : List Byte) : Except DecodeError (Line × List Byte) := do
  let (b, rest) ← readElement bytes
  let (input, rest) ← readArg rest
  pure (.bitUpdate b input (.bit load), rest)

/-- The rest of a Bit's Update with an argument for `loadEnable`. -/
def readBitFree (bytes : List Byte) : Except DecodeError (Line × List Byte) := do
  let (b, rest) ← readElement bytes
  let (input, rest) ← readArg rest
  let (load, rest) ← readArg rest
  pure (.bitUpdate b input load, rest)

/-- The rest of a Register's Update under a written-out `loadEnable`. -/
def readRegRow (load : Bool) (bytes : List Byte) : Except DecodeError (Line × List Byte) := do
  let (r, rest) ← readElement bytes
  let (word, rest) ← readArg rest
  let (fwd, rest) ← readFwd rest
  pure (.regUpdate r word (.bit load) fwd, rest)

/-- The rest of a Register's Update with an argument for `loadEnable`. -/
def readRegFree (bytes : List Byte) : Except DecodeError (Line × List Byte) := do
  let (r, rest) ← readElement bytes
  let (word, rest) ← readArg rest
  let (load, rest) ← readArg rest
  let (fwd, rest) ← readFwd rest
  pure (.regUpdate r word load fwd, rest)

/-- Reads the arguments of a gate with one port, two, three. -/
def readGate1 (mk : Arg → Line) (bytes : List Byte) : Except DecodeError (Line × List Byte) := do
  let (a, rest) ← readArg bytes
  pure (mk a, rest)

/-- A gate with two ports. -/
def readGate2 (mk : Arg → Arg → Line) (bytes : List Byte) : Except DecodeError (Line × List Byte) := do
  let (a, rest) ← readArg bytes
  let (b, rest) ← readArg rest
  pure (mk a b, rest)

/-- A gate with three ports. -/
def readGate3 (mk : Arg → Arg → Arg → Line) (bytes : List Byte) : Except DecodeError (Line × List Byte) := do
  let (a, rest) ← readArg bytes
  let (b, rest) ← readArg rest
  let (sel, rest) ← readArg rest
  pure (mk a b sel, rest)

/-- OR8WAY's eight ports. -/
def readOr8way (bytes : List Byte) : Except DecodeError (Line × List Byte) := do
  let (i0, rest) ← readArg bytes
  let (i1, rest) ← readArg rest
  let (i2, rest) ← readArg rest
  let (i3, rest) ← readArg rest
  let (i4, rest) ← readArg rest
  let (i5, rest) ← readArg rest
  let (i6, rest) ← readArg rest
  let (i7, rest) ← readArg rest
  pure (.or8way i0 i1 i2 i3 i4 i5 i6 i7, rest)

/-- A Tick of one element. -/
def readTick (mk : Nat → Line) (bytes : List Byte) : Except DecodeError (Line × List Byte) := do
  let (n, rest) ← readElement bytes
  pure (mk n, rest)

/-- Reads what follows the first byte, by the format the first byte selects. -/
def readBody (sel : Byte) (bytes : List Byte) : Except DecodeError (Line × List Byte) :=
  if sel.toNat < 64 then readAluRow (sel.setWidth 6) bytes
  else
    match sel.toNat - 64 with
    | 0 => readBitRow false bytes
    | 1 => readBitRow true bytes
    | 2 => readRegRow false bytes
    | 3 => readRegRow true bytes
    | 4 => readBitFree bytes
    | 5 => readRegFree bytes
    | 6 => readAluFree bytes
    | 7 => readTick .bitTick bytes
    | 8 => readTick .regTick bytes
    | 9 => .ok (.tick, bytes)
    | 10 => readGate1 .notGate bytes
    | 11 => readGate2 .andGate bytes
    | 12 => readGate2 .orGate bytes
    | 13 => readGate3 .muxGate bytes
    | 14 => readGate1 .not16 bytes
    | 15 => readGate2 .and16 bytes
    | 16 => readGate3 .mux16 bytes
    | 17 => readGate2 .add16 bytes
    | 18 => readOr8way bytes
    | _ => .error (.badSelector sel)

/-- Reads one line, well formed or not. -/
def readLine : List Byte → Except DecodeError (Line × List Byte)
  | [] => .error .truncated
  | sel :: bytes => readBody sel bytes

/-- The decoder: total on any bytes, gives a well-formed line and the bytes after it, or rejects by name. -/
def decodeLine (bytes : List Byte) : Except DecodeError (Line × List Byte) := do
  let (l, rest) ← readLine bytes
  if l.wf .encodable then pure (l, rest) else .error .notWellFormed

/-! ### Writing bytes -/

/-- The low and the high byte of a 16-bit number. -/
def numBytes (n : Nat) : List Byte := [BitVec.ofNat 8 n, BitVec.ofNat 8 (n / 256)]

/-- The number of an output port in the encoding. -/
def outPortCode : OutPort → Byte
  | .out => 0#8
  | .zr => 1#8
  | .ng => 2#8

/-- The four bytes of a source. -/
def encodeSrc : Src → List Byte
  | .sig (.word w) => [0#8, 0#8, w.setWidth 8, (w >>> 8).setWidth 8]
  | .sig (.bit b) => [1#8, if b then 1#8 else 0#8, 0#8, 0#8]
  | .sig .invalid => [2#8, 0#8, 0#8, 0#8]
  | .out back port => 3#8 :: outPortCode port :: numBytes back
  | .bitOf back i => 4#8 :: BitVec.ofNat 8 i :: numBytes back

/-- The bytes of an argument. -/
def encodeArg : Arg → List Byte
  | .absent => [5#8, 0#8, 0#8, 0#8]
  | .src s => encodeSrc s
  | .bundle lanes => [6#8, 0#8, 0#8, 0#8] ++ lanes.flatMap encodeSrc

/-- The bytes of a forwarding pair or of its absence. -/
def encodeFwd : Option Fwd → List Byte
  | none => [0#8, 0#8, 0#8, 0#8]
  | some f => 1#8 :: BitVec.ofNat 8 f.chan :: numBytes f.slot

/-- The byte of an element's number. -/
def encodeElement (n : Nat) : Byte := BitVec.ofNat 8 n

/-- The bytes of a line; the short forms carry control bits that the line writes out (R71, R72). -/
def encodeLine : Line → List Byte
  | .notGate a => 74#8 :: encodeArg a
  | .andGate a b => 75#8 :: (encodeArg a ++ encodeArg b)
  | .orGate a b => 76#8 :: (encodeArg a ++ encodeArg b)
  | .muxGate a b sel => 77#8 :: (encodeArg a ++ encodeArg b ++ encodeArg sel)
  | .not16 a => 78#8 :: encodeArg a
  | .and16 a b => 79#8 :: (encodeArg a ++ encodeArg b)
  | .mux16 a b sel => 80#8 :: (encodeArg a ++ encodeArg b ++ encodeArg sel)
  | .add16 a b => 81#8 :: (encodeArg a ++ encodeArg b)
  | .or8way i0 i1 i2 i3 i4 i5 i6 i7 =>
    82#8 :: (encodeArg i0 ++ encodeArg i1 ++ encodeArg i2 ++ encodeArg i3 ++ encodeArg i4 ++ encodeArg i5 ++
      encodeArg i6 ++ encodeArg i7)
  | .bitUpdate b input loadEnable =>
    match loadEnable.literalBit with
    | some l => (if l then 65#8 else 64#8) :: encodeElement b :: encodeArg input
    | none => 68#8 :: encodeElement b :: (encodeArg input ++ encodeArg loadEnable)
  | .regUpdate r word loadEnable fwd =>
    match loadEnable.literalBit with
    | some l => (if l then 67#8 else 66#8) :: encodeElement r :: (encodeArg word ++ encodeFwd fwd)
    | none => 69#8 :: encodeElement r :: (encodeArg word ++ encodeArg loadEnable ++ encodeFwd fwd)
  | .aluUpdate a x y zx nx zy ny f no =>
    match literalCtl zx nx zy ny f no with
    | some c => c.setWidth 8 :: encodeElement a :: (encodeArg x ++ encodeArg y)
    | none =>
      70#8 :: encodeElement a :: (encodeArg x ++ encodeArg y ++ encodeArg zx ++ encodeArg nx ++ encodeArg zy ++
        encodeArg ny ++ encodeArg f ++ encodeArg no)
  | .bitTick b => [71#8, encodeElement b]
  | .regTick r => [72#8, encodeElement r]
  | .tick => [73#8]

/-- The encoder of operations: the bytes of the line that writes the operation out. -/
def encode (i : Instr) : List Byte := encodeLine i.toLine

/-! ### Words of the opcode table -/

/-- How many bytes withFetchWord and decodeTableWord lay out: no line whose operand bytes are all zero is longer
(the longest is ALU.Update with an argument for each port, 34 bytes). -/
def tableBytesLength : Nat := 40

/-- The bytes of a table word, first byte least significant, every bit above `nbits` zero. -/
def tableBytes (nbits w : Nat) : List Byte :=
  (List.range tableBytesLength).map fun k => BitVec.ofNat 8 ((w % 2 ^ nbits) >>> (8 * k))

/-- The operation the decoder reads from a table word: table words are control bits, so the word of an ALUCTL row is
the first byte of that row's line with `x` and `y` written out as 0x0000 on ALU 0. A LOADCTL or PORT row's bits do not
say which element they control (R70): its table word alone reads as an ALUCTL word (log 5). -/
def decodeTableWord (nbits w : Nat) : Option Instr :=
  match decodeLine (tableBytes nbits w) with
  | .ok (l, _) => l.static
  | .error _ => none

end Sys2Proof
end

