-- ==== Sys2Proof/Machine/State.lean ====
section
/-! DEFINITION. The state of the block and of the harness's run, the reasons a step can stop, and construction. -/

namespace Sys2Proof.Machine

/-- A one-bit clocked cell: the committed and the staged value (10_state.md R23). Never `Invalid` (R24). -/
structure BitCell where
  cur : Bool
  pend : Bool
deriving DecidableEq, Repr

/-- A Register: sixteen Bits, lane `i` being `⟨cur[i], pend[i]⟩` (R25); `cur` is `REG[r].word`. -/
structure RegCell where
  cur : Word
  pend : Word
deriving DecidableEq, Repr

/-- The eight input latches of an ALU, each holding the Signal last supplied on its port (R29). -/
structure Latches where
  x : Sig
  y : Sig
  zx : Sig
  nx : Sig
  zy : Sig
  ny : Sig
  f : Sig
  no : Sig
deriving DecidableEq, Repr

/-- The latches of an ALU that has seen no Update: every one `Invalid` (R34, D7). -/
def Latches.fresh : Latches := ⟨.invalid, .invalid, .invalid, .invalid, .invalid, .invalid, .invalid, .invalid⟩

/-- What one line returned. Never `Invalid` (R90, D28). -/
inductive Outputs where
  /-- A Tick has no output (R122, R128). -/
  | nothing
  | bit (out : Bool)
  | word (out : Word)
  /-- ALU.Update (R140). The flags are outputs, not state of the block (R28). -/
  | alu (out : Word) (zr ng : Bool)
deriving DecidableEq, Repr

/-- The event `Forward(r, slot, word)` with the channel it went to (42_storage.md R127). -/
structure ForwardEvent where
  reg : Nat
  chan : Nat
  slot : Nat
  word : Word
deriving DecidableEq, Repr

/-- The block (`regs`, `bits`, `alus`: their lengths are NREG, the number of free-standing Bits and NALU; `slots`) and the
harness's bookkeeping, which is outside the block (10_state.md R27, 70_reset_and_hazards.md R247). -/
structure State where
  /-- The Registers, by index (R25, R26). -/
  regs : List RegCell
  /-- The free-standing Bits, by index (R23). -/
  bits : List BitCell
  /-- The ALUs' input latches, by index (R29). -/
  alus : List Latches
  /-- `SLOTS`, fixed by the enclosing circuit (00_scope.md R8, 10_state.md R36); read by forwarding, written by nothing. -/
  slots : Nat
  /-- The encoded trace lines not yet issued (R80). -/
  todo : List Byte
  /-- What the issued lines returned, newest first (R80, R247). -/
  outs : List Outputs
  /-- The Forward events emitted, newest first (R127, R247). -/
  events : List ForwardEvent
deriving DecidableEq, Repr

/-- The three errors of the block, a closed set (60_exceptions.md R200). A fault ends the run and has no state after it
(R204, R213). Each is the spec's own outcome; where the software would go on (D12, D7) the difference is safe. -/
inductive Fault where
  /-- Raised by every Update at the check of the port: a Signal of the wrong width (R201). Safe. -/
  | invalidWidth (p : Port)
  /-- Raised by every Update at the check of the port, and by bundling: `Invalid`, or nothing supplied (R202, R53).
  Safe. -/
  | uninitializedSignal (p : Port)
  /-- Raised by the join of Register.Update when lane `lane` does not reply; unreachable (R203, R125, R130). Safe. -/
  | deadlock (lane : Nat)
deriving DecidableEq, Repr

/-- Why a trace is given no meaning at this point; none of these is an outcome of the block. All are safe: the run
stops and is not a completed run. -/
inductive Refusal where
  /-- An operation without a meaning in exec; no arm answers this any more. -/
  | notModelled (mnemonic : String)
  /-- Answered by the fetch when no line is left: the run is completed (R247). -/
  | endOfTrace
  /-- Answered by the fetch when the bytes are no well-formed line (93_implementation_defined.md U11). -/
  | illFormed (e : DecodeError)
  /-- Answered when a line refers to an output that no earlier line returned (R80). -/
  | noSuchOutput
  /-- Answered when an operation addresses an element the circuit does not have (R26, R37). -/
  | noSuchElement
  /-- Answered when an operation forwards to a slot that is not below the circuit's SLOTS (R80). -/
  | noSuchSlot
deriving DecidableEq, Repr

/-- The outcome of one operation or one line. -/
abbrev Outcome := Host.Outcome State Fault Refusal

/-- Why an operation or a line stops. -/
inductive Stop where
  | fault (f : Fault)
  | refused (r : Refusal)
deriving DecidableEq, Repr

/-- `[f i, f (i + 1), …]`, `n` entries: the elements of one kind as construction makes them. -/
def build {α : Type} (f : Nat → α) : Nat → Nat → List α
  | 0, _ => []
  | n + 1, i => f i :: build f n (i + 1)

/-- A Register after construction: `cur` arbitrary, `pend = cur` (R34, D4, D5). -/
def RegCell.construct (r : Nat) : RegCell := ⟨Config.resetCur r, Config.resetCur r⟩

/-- A free-standing Bit after construction (R34). -/
def BitCell.construct (b : Nat) : BitCell := ⟨Config.resetBit b, Config.resetBit b⟩

/-- The circuit `c` right after construction, the only reset there is (70_reset_and_hazards.md R230, R231), with no
trace loaded. -/
def State.construct (c : Circuit) : State where
  regs := build RegCell.construct c.nreg 0
  bits := build BitCell.construct c.nbit 0
  alus := build (fun _ => Latches.fresh) c.nalu 0
  slots := c.slots
  todo := []
  outs := []
  events := []

/-- The circuit a state is a state of (R8). -/
def State.circuit (s : State) : Circuit := ⟨s.regs.length, s.bits.length, s.alus.length, s.slots⟩

/-- The machine right after reset. -/
def State.reset : State := State.construct Config.circuit

end Sys2Proof.Machine
end

