-- ==== Sys2Proof/Machine/Operands.lean ====
section
/-! DEFINITION. Signals at ports: the port checks, the wiring between words and lanes, the argument forms of a trace
line, the option list of the ALU. -/

namespace Sys2Proof.Machine

/-! ### Port checks (00_scope.md R10) -/

/-- `need1(p, s)`: the bit on a 1-bit port. A port left unsupplied carries `Invalid` (40_primitive_gates.md R90). -/
def need1 (p : Port) : Option Sig → Except Fault Bool
  | none | some .invalid => .error (.uninitializedSignal p)
  | some (.word _) => .error (.invalidWidth p)
  | some (.bit b) => .ok b

/-- `need16(p, s)`: the word on a 16-bit port. -/
def need16 (p : Port) : Option Sig → Except Fault Word
  | none | some .invalid => .error (.uninitializedSignal p)
  | some (.bit _) => .error (.invalidWidth p)
  | some (.word w) => .ok w

/-! ### Wiring (20_memory.md R53): no gates, no primitives -/

/-- Sets output bit `idx` wherever a reply's value is true, starting from ZERO16 (42_storage.md R124). -/
def joinLanes (replies : List (Nat × Bool)) : Word :=
  replies.foldl (fun o reply => if reply.2 then o ||| BitVec.twoPow 16 reply.1 else o) zero16

/-- The sixteen values of a function of the lane, lane 0 first. -/
def laneList (f : Nat → Bool) : List (Nat × Bool) := (List.range 16).map fun i => (i, f i)

/-- Bundles sixteen bits: `w[i] = f i`. -/
def ofLanes (f : Nat → Bool) : Word := joinLanes (laneList f)

/-- Bundles sixteen Signals onto port `p`: `Invalid` among them raises UninitializedSignal (R53, D26); a vector among
them is a Signal of the wrong width (DEDUCED from R54, log 10). Lane 0 is looked at first. -/
def bundle (p : Port) (lanes : List Sig) : Except Fault Word := do
  let bits ← lanes.mapM fun s => need1 p (some s)
  pure (ofLanes fun i => bits.getD i false)

/-! ### Arguments of a trace line (30_encoding.md R80) -/

/-- The Signal on an output port, if the line returned one there. -/
def Outputs.port : Outputs → OutPort → Option Sig
  | .bit b, .out => some (.bit b)
  | .word w, .out => some (.word w)
  | .alu w _ _, .out => some (.word w)
  | .alu _ zr _, .zr => some (.bit zr)
  | .alu _ _ ng, .ng => some (.bit ng)
  | _, _ => none

/-- The Signal a source supplies; `none` where it refers to an output that does not exist. -/
def Src.resolve (outs : List Outputs) : Src → Option Sig
  | .sig s => some s
  | .out back port => (outs[back]?).bind fun o => o.port port
  | .bitOf back i =>
    match (outs[back]?).bind fun o => o.port .out with
    | some (.word w) => some (.bit (w.getLsbD i))
    | _ => none

/-- A source as an answer or a refusal. -/
def needSrc (outs : List Outputs) (s : Src) : Except Stop Sig :=
  match Src.resolve outs s with
  | some g => .ok g
  | none => .error (.refused .noSuchOutput)

/-- An operation's fault as a stop. -/
def faulting {α : Type} : Except Fault α → Except Stop α
  | .ok v => .ok v
  | .error f => .error (.fault f)

/-- The Signal an argument puts on port `p`; `none` where the line does not name the port. -/
def resolve (outs : List Outputs) (p : Port) : Arg → Except Stop (Option Sig)
  | .absent => .ok none
  | .src s => do pure (some (← needSrc outs s))
  | .bundle lanes => do
    let sigs ← lanes.mapM (needSrc outs)
    pure (some (.word (← faulting (bundle p sigs))))

/-! ### The ALU's option list and latches (43_alu_pipeline.md R141) -/

/-- The option list: a Signal for each port the Update names, each port at most once (D11). -/
structure AluOpts where
  x : Option Sig
  y : Option Sig
  zx : Option Sig
  nx : Option Sig
  zy : Option Sig
  ny : Option Sig
  f : Option Sig
  no : Option Sig
deriving DecidableEq, Repr

/-- The eight values that pass the port checks. -/
structure AluIn where
  x : Word
  y : Word
  zx : Bool
  nx : Bool
  zy : Bool
  ny : Bool
  f : Bool
  no : Bool
deriving DecidableEq, Repr

/-- R141 step 1: a port named in the option list takes the new Signal, the others keep theirs (R29). -/
def Latches.drive (l : Latches) (o : AluOpts) : Latches where
  x := o.x.getD l.x
  y := o.y.getD l.y
  zx := o.zx.getD l.zx
  nx := o.nx.getD l.nx
  zy := o.zy.getD l.zy
  ny := o.ny.getD l.ny
  f := o.f.getD l.f
  no := o.no.getD l.no

/-- R141 step 2: the eight latched Signals are checked in the order x, y, zx, nx, zy, ny, f, no (R149). -/
def Latches.read (l : Latches) : Except Fault AluIn := do
  let x ← need16 .x (some l.x)
  let y ← need16 .y (some l.y)
  let zx ← need1 .zx (some l.zx)
  let nx ← need1 .nx (some l.nx)
  let zy ← need1 .zy (some l.zy)
  let ny ← need1 .ny (some l.ny)
  let f ← need1 .f (some l.f)
  let no ← need1 .no (some l.no)
  pure ⟨x, y, zx, nx, zy, ny, f, no⟩

/-- The control word of the six flag values (30_encoding.md R71). -/
def AluIn.ctl (p : AluIn) : Ctl := ctlOfFlags p.zx p.nx p.zy p.ny p.f p.no

/-- The option list that drives the six flag ports with a control word and `x`, `y` as given (R80, `ctl=`). -/
def rowOpts (c : Ctl) (x y : Option Sig) : AluOpts where
  x := x
  y := y
  zx := some (.bit (ctlFlag c 5))
  nx := some (.bit (ctlFlag c 4))
  zy := some (.bit (ctlFlag c 3))
  ny := some (.bit (ctlFlag c 2))
  f := some (.bit (ctlFlag c 1))
  no := some (.bit (ctlFlag c 0))

end Sys2Proof.Machine
end

