-- ==== Sys2Proof/Machine/Netlist.lean ====
section
/-! DEFINITION. The gates as functions: the three primitives, the composite gates built from them and from nothing else
(41_composite_gates.md R100), the composition trees as data, and the five stages of the ALU. -/

namespace Sys2Proof.Machine

/-! ### The primitives (40_primitive_gates.md R91 to R93): the only leaves -/

/-- `NOT(a) = ¬a` (R91). -/
def not1 (a : Bool) : Bool := !a

/-- `AND(a,b) = a∧b` (R92). -/
def and1 (a b : Bool) : Bool := a && b

/-- `OR(a,b) = a∨b` (R93). -/
def or1 (a b : Bool) : Bool := a || b

/-! ### Composite gates -/

/-- `MUX(a,b,sel) = OR(AND(a, NOT(sel)), AND(sel,b))` (R101). -/
def mux1 (a b sel : Bool) : Bool := or1 (and1 a (not1 sel)) (and1 sel b)

/-- Sixteen NOT, one per lane (R103, R104). -/
def not16 (a : Word) : Word := ofLanes fun i => not1 (a.getLsbD i)

/-- Sixteen AND, one per lane (R105). -/
def and16 (a b : Word) : Word := ofLanes fun i => and1 (a.getLsbD i) (b.getLsbD i)

/-- Sixteen MUX fed the same select (R106). -/
def mux16 (a b : Word) (sel : Bool) : Word := ofLanes fun i => mux1 (a.getLsbD i) (b.getLsbD i) sel

/-- `XOR(p, q)`, a cell inside ADD16 (R107). -/
def xorCell (p q : Bool) : Bool := or1 (and1 p (not1 q)) (and1 (not1 p) q)

/-- The `sum` of FULLADD (R107). -/
def sumCell (p q c : Bool) : Bool := xorCell (xorCell p q) c

/-- The `carry` of FULLADD (R107). -/
def carryCell (p q c : Bool) : Bool := or1 (and1 p q) (and1 c (xorCell p q))

/-- `c[i]`, the carry into lane `i`; `c[0] = 0` (R108, D16). -/
def carryInto (a b : Word) : Nat → Bool
  | 0 => false
  | i + 1 => carryCell (a.getLsbD i) (b.getLsbD i) (carryInto a b i)

/-- The ripple adder; the carry out of lane 15 is dropped (R108). -/
def add16 (a b : Word) : Word :=
  ofLanes fun i => sumCell (a.getLsbD i) (b.getLsbD i) (carryInto a b i)

/-- Seven OR (R110). -/
def or8 (i0 i1 i2 i3 i4 i5 i6 i7 : Bool) : Bool :=
  or1 (or1 (or1 i0 i1) (or1 i2 i3)) (or1 (or1 i4 i5) (or1 i6 i7))

/-! ### Composition trees as data (10_state.md R22, R94, R112) -/

/-- A one-output tree over numbered one-bit ports. By its type it bottoms out at NOT, AND and OR (R22);
`low` is the constant 0 wired into lane 0 of ADD16 (R108) and into the ALU (R75). -/
inductive Tree where
  | port (k : Nat)
  | low
  | not (t : Tree)
  | and (t u : Tree)
  | or (t u : Tree)
deriving DecidableEq, Repr

/-- Settles a tree on Signals: each leaf is an Update of NOT, AND or OR, which checks its ports `a` and `b` and raises
(R90, R91 to R93). Every node is evaluated; there is no short-circuit. -/
def Tree.update (wire : Nat → Option Sig) : Tree → Except Fault (Option Sig)
  | .port k => .ok (wire k)
  | .low => .ok (some (.bit false))
  | .not t => do
    let a ← need1 .a (← t.update wire)
    pure (some (.bit (not1 a)))
  | .and t u => do
    let ta ← t.update wire
    let ub ← u.update wire
    let a ← need1 .a ta
    let b ← need1 .b ub
    pure (some (.bit (and1 a b)))
  | .or t u => do
    let ta ← t.update wire
    let ub ← u.update wire
    let a ← need1 .a ta
    let b ← need1 .b ub
    pure (some (.bit (or1 a b)))

/-- How many primitives a tree holds, NOT, AND, OR together. -/
def Tree.gates : Tree → Nat
  | .port _ | .low => 0
  | .not t => t.gates + 1
  | .and t u | .or t u => t.gates + u.gates + 1

/-- MUX over ports 0 = a, 1 = b, 2 = sel (R101). -/
def muxTree : Tree := .or (.and (.port 0) (.not (.port 2))) (.and (.port 2) (.port 1))

/-- OR8WAY over ports 0 to 7 (R110). -/
def or8Tree : Tree :=
  .or (.or (.or (.port 0) (.port 1)) (.or (.port 2) (.port 3))) (.or (.or (.port 4) (.port 5)) (.or (.port 6) (.port 7)))

/-- XOR as a tree (R107). -/
def xorTree (p q : Tree) : Tree := .or (.and p (.not q)) (.and (.not p) q)

/-- The carry chain of ADD16: port `i` is `a[i]`, port `16 + i` is `b[i]` (R107, R108). -/
def carryTree : Nat → Tree
  | 0 => .low
  | i + 1 =>
    .or (.and (.port i) (.port (16 + i))) (.and (carryTree i) (xorTree (.port i) (.port (16 + i))))

/-- Lane `i` of ADD16 as a tree. -/
def sumTree (i : Nat) : Tree := xorTree (xorTree (.port i) (.port (16 + i))) (carryTree i)

/-! ### The five stages of the ALU (43_alu_pipeline.md R142 to R147) -/

/-- Stage 1, zero-conditioning, of `x` (R142). -/
def AluIn.x1 (p : AluIn) : Word := mux16 p.x zero16 p.zx

/-- Stage 1 of `y`. -/
def AluIn.y1 (p : AluIn) : Word := mux16 p.y zero16 p.zy

/-- Stage 2, negate-conditioning, of `x` (R143). -/
def AluIn.x2 (p : AluIn) : Word := mux16 p.x1 (not16 p.x1) p.nx

/-- Stage 2 of `y`. -/
def AluIn.y2 (p : AluIn) : Word := mux16 p.y1 (not16 p.y1) p.ny

/-- Stage 3, function select: both gates are evaluated, the multiplexer picks one (R144). -/
def AluIn.raw (p : AluIn) : Word := mux16 (and16 p.x2 p.y2) (add16 p.x2 p.y2) p.f

/-- Stage 4, output negation (R145). -/
def AluIn.out (p : AluIn) : Word := mux16 p.raw (not16 p.raw) p.no

end Sys2Proof.Machine
end

