-- ==== Sys2Proof/Machine/Flags.lean ====
section
/-! DEFINITION. The two flags, stage 5 of the ALU: outputs of every Update that does not raise, stored nowhere in the
block (10_state.md R28). There is no carry and no overflow flag (R152). -/

namespace Sys2Proof.Machine

/-- The zero flag: OR8WAY over the low and the high byte, joined by an OR and inverted (R146, D18, D25). -/
def flagZr (out : Word) : Bool :=
  let low := or8 (out.getLsbD 0) (out.getLsbD 1) (out.getLsbD 2) (out.getLsbD 3) (out.getLsbD 4) (out.getLsbD 5)
    (out.getLsbD 6) (out.getLsbD 7)
  let high := or8 (out.getLsbD 8) (out.getLsbD 9) (out.getLsbD 10) (out.getLsbD 11) (out.getLsbD 12)
    (out.getLsbD 13) (out.getLsbD 14) (out.getLsbD 15)
  not1 (or1 low high)

/-- The negative flag: bit 15 of `out`, a wire (R147). -/
def flagNg (out : Word) : Bool := out.getLsbD 15

/-- What one ALU.Update returns for the values at its ports (R141). -/
def AluIn.outputs (p : AluIn) : Outputs := .alu p.out (flagZr p.out) (flagNg p.out)

end Sys2Proof.Machine
end

