-- ==== Sys2Proof/Machine/Ops.lean ====
section
/-! DEFINITION. The shared operations over the state: returning outputs, raising, the Bit and the Register, the gates'
common shapes, ALU.Update, and the global edge. -/

namespace Sys2Proof.Machine

/-! ### Small updates of the state -/

/-- Records what the line returned (R247). -/
def State.emit (s : State) (o : Outputs) : State := { s with outs := o :: s.outs }

/-- Replaces Register `r`. -/
def State.setReg (s : State) (r : Nat) (c : RegCell) : State := { s with regs := s.regs.set r c }

/-- Replaces free-standing Bit `b`. -/
def State.setBit (s : State) (b : Nat) (c : BitCell) : State := { s with bits := s.bits.set b c }

/-- Replaces the latches of ALU `a`. -/
def State.setAlu (s : State) (a : Nat) (l : Latches) : State := { s with alus := s.alus.set a l }

/-- Emits `Forward(r, slot, word)` if the line asks for it; no state of the block changes, the send never blocks
(42_storage.md R127, D23). -/
def State.forward (s : State) (r : Nat) (fwd : Option Fwd) (w : Word) : State :=
  match fwd with
  | none => s
  | some f => { s with events := ⟨r, f.chan, f.slot, w⟩ :: s.events }

/-! ### Raising -/

/-- The one place where an error ends an operation: a failed check is the operation's outcome, nothing after it is
written and there is no state to go on from (60_exceptions.md R204, R213); a passed check goes on. -/
def check {α : Type} (c : Except Fault α) (next : α → Outcome) : Outcome :=
  match c with
  | .error f => .fault f
  | .ok v => next v

/-- The element an operation addresses, or a refusal: the trace names an element the circuit does not have. -/
def element {α : Type} (found : Option α) (next : α → Outcome) : Outcome :=
  match found with
  | none => .refused .noSuchElement
  | some e => next e

/-- Goes on if the forwarding pair, where there is one, names a slot of the circuit; otherwise refuses (R80). -/
def slotted (s : State) (fwd : Option Fwd) (next : Outcome) : Outcome :=
  if slotOk s.slots fwd then next else .refused .noSuchSlot

/-! ### The Bit: its rule is in these two definitions and nowhere else (93_implementation_defined.md U1) -/

/-- `pend <- MUX(a = cur, b = input, sel = loadEnable)`, returning `cur` (42_storage.md R120). -/
def BitCell.update (c : BitCell) (input load : Bool) : BitCell × Bool :=
  ({ c with pend := mux1 c.cur input load }, c.cur)

/-- `cur <- pend`; `pend` stays (R122). -/
def BitCell.tick (c : BitCell) : BitCell := { c with cur := c.pend }

/-! ### The Register: sixteen Bits (42_storage.md R124, R128) -/

/-- Lane `i` of a Register (10_state.md R25). -/
def RegCell.lane (c : RegCell) (i : Nat) : BitCell := ⟨c.cur.getLsbD i, c.pend.getLsbD i⟩

/-- A Register from its lanes. -/
def RegCell.ofCells (cell : Nat → BitCell) : RegCell :=
  ⟨ofLanes fun i => (cell i).cur, ofLanes fun i => (cell i).pend⟩

/-- The rendezvous: exactly one reply per lane is awaited; a lane that never replies is `Deadlock` with its index
(R130, R203), otherwise the word is joined from the replies in whatever order they came (R124, R126). -/
def collect (replies : List (Nat × Bool)) : Except Fault Word :=
  match (List.range 16).find? fun lane => !(replies.any fun reply => reply.1 == lane) with
  | some lane => .error (.deadlock lane)
  | none => .ok (joinLanes replies)

/-- Invokes every lane's Bit.Update with bit `i` of the word and the shared `loadEnable`, and joins the replies (R124). -/
def RegCell.update (c : RegCell) (word : Word) (load : Bool) : Except Fault (RegCell × Word) := do
  let lane := fun i => (c.lane i).update (word.getLsbD i) load
  let out ← collect (laneList fun i => (lane i).2)
  pure (.ofCells fun i => (lane i).1, out)

/-- Commits the sixteen Bits (R128). -/
def RegCell.tick (c : RegCell) : RegCell := .ofCells fun i => (c.lane i).tick

/-! ### Bit and Register operations on the state -/

/-- Bit.Update on Bit `b`: the checks come before the write, so an Update that raises stages nothing (R121). -/
def bitUpdate (b : Nat) (input load : Option Sig) (s : State) : Outcome :=
  element s.bits[b]? fun c =>
    check (need1 .input input) fun iv =>
      check (need1 .loadEnable load) fun lv =>
        .next ((s.setBit b (c.update iv lv).1).emit (.bit (c.update iv lv).2))

/-- Bit.Tick on Bit `b`; raises nothing (R122, R208). -/
def bitTick (b : Nat) (s : State) : Outcome :=
  element s.bits[b]? fun c => .next ((s.setBit b c.tick).emit .nothing)

/-- Register.Update on Register `r`, the two ports checked at the Register before any lane is invoked (R124, R125);
the joined word is forwarded after the sixteenth reply and before the return (R127). -/
def regUpdate (r : Nat) (word load : Option Sig) (fwd : Option Fwd) (s : State) : Outcome :=
  element s.regs[r]? fun c =>
    slotted s fwd <|
      check (need16 .word word) fun ww =>
        check (need1 .loadEnable load) fun lv =>
          check (c.update ww lv) fun done =>
            .next (((s.setReg r done.1).forward r fwd done.2).emit (.word done.2))

/-- Register.Tick on Register `r`; raises nothing (R128, R208). -/
def regTick (r : Nat) (s : State) : Outcome :=
  element s.regs[r]? fun c => .next ((s.setReg r c.tick).emit .nothing)

/-- `TICK`, the global edge: every Register and every free-standing Bit ticked once, as one step; the order is
unobservable and no Update can fall inside (30_encoding.md R81, 70_reset_and_hazards.md R239, R240, D24). -/
def State.globalTick (s : State) : State :=
  { s with regs := s.regs.map RegCell.tick, bits := s.bits.map BitCell.tick }.emit .nothing

/-! ### Gates: every port checked in port-list order, no state read or written (40_primitive_gates.md R90) -/

/-- A gate with one 1-bit port. -/
def gate1 (fn : Bool → Bool) (a : Option Sig) (s : State) : Outcome :=
  check (need1 .a a) fun av => .next (s.emit (.bit (fn av)))

/-- A gate with two 1-bit ports. -/
def gate2 (fn : Bool → Bool → Bool) (a b : Option Sig) (s : State) : Outcome :=
  check (need1 .a a) fun av => check (need1 .b b) fun bv => .next (s.emit (.bit (fn av bv)))

/-- A gate with one 16-bit port. -/
def wide1 (fn : Word → Word) (a : Option Sig) (s : State) : Outcome :=
  check (need16 .a a) fun aw => .next (s.emit (.word (fn aw)))

/-- A gate with two 16-bit ports. -/
def wide2 (fn : Word → Word → Word) (a b : Option Sig) (s : State) : Outcome :=
  check (need16 .a a) fun aw => check (need16 .b b) fun bw => .next (s.emit (.word (fn aw bw)))

/-! ### The ALU -/

/-- ALU.Update on ALU `a` (43_alu_pipeline.md R141): latches, port checks, five stages. -/
def aluUpdate (a : Nat) (o : AluOpts) (s : State) : Outcome :=
  element s.alus[a]? fun l =>
    check (l.drive o).read fun p => .next ((s.setAlu a (l.drive o)).emit p.outputs)

/-- ALU.Update with the flag ports driven by one control word (44_alu_operations.md R160). -/
def aluRow (c : Ctl) (a : Nat) (x y : Option Sig) (s : State) : Outcome := aluUpdate a (rowOpts c x y) s

end Sys2Proof.Machine
end

