-- ==== Sys2Proof/Machine/AluCanonical.lean ====
section
/-! DEFINITION. The eighteen canonical ALU operations (44_alu_operations.md R161 to R178): each is the ALU's Update
with the six flag ports driven by one control word (R160), so that the five stages compute the named function. -/

namespace Sys2Proof.Machine

/-- ALU.ZERO: out = 0 (R161). -/
def execAluZero (a : Nat) (x y : Option Sig) (s : State) : Outcome :=
  aluRow 0b101010#6 a x y s

/-- ALU.ONE: out = 1 (R162). -/
def execAluOne (a : Nat) (x y : Option Sig) (s : State) : Outcome :=
  aluRow 0b111111#6 a x y s

/-- ALU.NEG1: out = -1 (R163). -/
def execAluNeg1 (a : Nat) (x y : Option Sig) (s : State) : Outcome :=
  aluRow 0b111010#6 a x y s

/-- ALU.X: out = x (R164). -/
def execAluX (a : Nat) (x y : Option Sig) (s : State) : Outcome :=
  aluRow 0b001100#6 a x y s

/-- ALU.Y: out = y (R165). -/
def execAluY (a : Nat) (x y : Option Sig) (s : State) : Outcome :=
  aluRow 0b110000#6 a x y s

/-- ALU.NOTX: out = !x (R166). -/
def execAluNotx (a : Nat) (x y : Option Sig) (s : State) : Outcome :=
  aluRow 0b001101#6 a x y s

/-- ALU.NOTY: out = !y (R167). -/
def execAluNoty (a : Nat) (x y : Option Sig) (s : State) : Outcome :=
  aluRow 0b110001#6 a x y s

/-- ALU.NEGX: out = -x (R168). -/
def execAluNegx (a : Nat) (x y : Option Sig) (s : State) : Outcome :=
  aluRow 0b001111#6 a x y s

/-- ALU.NEGY: out = -y (R169). -/
def execAluNegy (a : Nat) (x y : Option Sig) (s : State) : Outcome :=
  aluRow 0b110011#6 a x y s

/-- ALU.INCX: out = x+1 (R170). -/
def execAluIncx (a : Nat) (x y : Option Sig) (s : State) : Outcome :=
  aluRow 0b011111#6 a x y s

/-- ALU.INCY: out = y+1 (R171). -/
def execAluIncy (a : Nat) (x y : Option Sig) (s : State) : Outcome :=
  aluRow 0b110111#6 a x y s

/-- ALU.DECX: out = x-1 (R172). -/
def execAluDecx (a : Nat) (x y : Option Sig) (s : State) : Outcome :=
  aluRow 0b001110#6 a x y s

/-- ALU.DECY: out = y-1 (R173). -/
def execAluDecy (a : Nat) (x y : Option Sig) (s : State) : Outcome :=
  aluRow 0b110010#6 a x y s

/-- ALU.ADD: out = x+y (R174). -/
def execAluAdd (a : Nat) (x y : Option Sig) (s : State) : Outcome :=
  aluRow 0b000010#6 a x y s

/-- ALU.SUBXY: out = x-y (R175). -/
def execAluSubxy (a : Nat) (x y : Option Sig) (s : State) : Outcome :=
  aluRow 0b010011#6 a x y s

/-- ALU.SUBYX: out = y-x (R176). -/
def execAluSubyx (a : Nat) (x y : Option Sig) (s : State) : Outcome :=
  aluRow 0b000111#6 a x y s

/-- ALU.ANDXY: out = x&y (R177). -/
def execAluAndxy (a : Nat) (x y : Option Sig) (s : State) : Outcome :=
  aluRow 0b000000#6 a x y s

/-- ALU.ORXY: out = x|y (R178). -/
def execAluOrxy (a : Nat) (x y : Option Sig) (s : State) : Outcome :=
  aluRow 0b010101#6 a x y s

end Sys2Proof.Machine
end

