-- ==== Sys2Proof/Machine/AluOther.lean ====
section
/-! DEFINITION. The forty-six other control words (44_alu_operations.md R179, 30_encoding.md R78): each is the ALU's Update
with the six flag ports driven by one control word (R160), so that the five stages compute the named function. -/

namespace Sys2Proof.Machine

/-- ALU.C000001: out = !(x&y) (R179). -/
def execAluC000001 (a : Nat) (x y : Option Sig) (s : State) : Outcome :=
  aluRow 0b000001#6 a x y s

/-- ALU.C000011: out = -x-y-1 (R179). -/
def execAluC000011 (a : Nat) (x y : Option Sig) (s : State) : Outcome :=
  aluRow 0b000011#6 a x y s

/-- ALU.C000100: out = x&!y (R179). -/
def execAluC000100 (a : Nat) (x y : Option Sig) (s : State) : Outcome :=
  aluRow 0b000100#6 a x y s

/-- ALU.C000101: out = !x|y (R179). -/
def execAluC000101 (a : Nat) (x y : Option Sig) (s : State) : Outcome :=
  aluRow 0b000101#6 a x y s

/-- ALU.C000110: out = x-y-1 (R179). -/
def execAluC000110 (a : Nat) (x y : Option Sig) (s : State) : Outcome :=
  aluRow 0b000110#6 a x y s

/-- ALU.C001000: out = 0 (R179). -/
def execAluC001000 (a : Nat) (x y : Option Sig) (s : State) : Outcome :=
  aluRow 0b001000#6 a x y s

/-- ALU.C001001: out = -1 (R179). -/
def execAluC001001 (a : Nat) (x y : Option Sig) (s : State) : Outcome :=
  aluRow 0b001001#6 a x y s

/-- ALU.C001010: out = x (R179). -/
def execAluC001010 (a : Nat) (x y : Option Sig) (s : State) : Outcome :=
  aluRow 0b001010#6 a x y s

/-- ALU.C001011: out = !x (R179). -/
def execAluC001011 (a : Nat) (x y : Option Sig) (s : State) : Outcome :=
  aluRow 0b001011#6 a x y s

/-- ALU.C010000: out = !x&y (R179). -/
def execAluC010000 (a : Nat) (x y : Option Sig) (s : State) : Outcome :=
  aluRow 0b010000#6 a x y s

/-- ALU.C010001: out = x|!y (R179). -/
def execAluC010001 (a : Nat) (x y : Option Sig) (s : State) : Outcome :=
  aluRow 0b010001#6 a x y s

/-- ALU.C010010: out = y-x-1 (R179). -/
def execAluC010010 (a : Nat) (x y : Option Sig) (s : State) : Outcome :=
  aluRow 0b010010#6 a x y s

/-- ALU.C010100: out = !(x|y) (R179). -/
def execAluC010100 (a : Nat) (x y : Option Sig) (s : State) : Outcome :=
  aluRow 0b010100#6 a x y s

/-- ALU.C010110: out = -x-y-2 (R179). -/
def execAluC010110 (a : Nat) (x y : Option Sig) (s : State) : Outcome :=
  aluRow 0b010110#6 a x y s

/-- ALU.C010111: out = x+y+1 (R179). -/
def execAluC010111 (a : Nat) (x y : Option Sig) (s : State) : Outcome :=
  aluRow 0b010111#6 a x y s

/-- ALU.C011000: out = 0 (R179). -/
def execAluC011000 (a : Nat) (x y : Option Sig) (s : State) : Outcome :=
  aluRow 0b011000#6 a x y s

/-- ALU.C011001: out = -1 (R179). -/
def execAluC011001 (a : Nat) (x y : Option Sig) (s : State) : Outcome :=
  aluRow 0b011001#6 a x y s

/-- ALU.C011010: out = !x (R179). -/
def execAluC011010 (a : Nat) (x y : Option Sig) (s : State) : Outcome :=
  aluRow 0b011010#6 a x y s

/-- ALU.C011011: out = x (R179). -/
def execAluC011011 (a : Nat) (x y : Option Sig) (s : State) : Outcome :=
  aluRow 0b011011#6 a x y s

/-- ALU.C011100: out = !x (R179). -/
def execAluC011100 (a : Nat) (x y : Option Sig) (s : State) : Outcome :=
  aluRow 0b011100#6 a x y s

/-- ALU.C011101: out = x (R179). -/
def execAluC011101 (a : Nat) (x y : Option Sig) (s : State) : Outcome :=
  aluRow 0b011101#6 a x y s

/-- ALU.C011110: out = -x-2 (R179). -/
def execAluC011110 (a : Nat) (x y : Option Sig) (s : State) : Outcome :=
  aluRow 0b011110#6 a x y s

/-- ALU.C100000: out = 0 (R179). -/
def execAluC100000 (a : Nat) (x y : Option Sig) (s : State) : Outcome :=
  aluRow 0b100000#6 a x y s

/-- ALU.C100001: out = -1 (R179). -/
def execAluC100001 (a : Nat) (x y : Option Sig) (s : State) : Outcome :=
  aluRow 0b100001#6 a x y s

/-- ALU.C100010: out = y (R179). -/
def execAluC100010 (a : Nat) (x y : Option Sig) (s : State) : Outcome :=
  aluRow 0b100010#6 a x y s

/-- ALU.C100011: out = !y (R179). -/
def execAluC100011 (a : Nat) (x y : Option Sig) (s : State) : Outcome :=
  aluRow 0b100011#6 a x y s

/-- ALU.C100100: out = 0 (R179). -/
def execAluC100100 (a : Nat) (x y : Option Sig) (s : State) : Outcome :=
  aluRow 0b100100#6 a x y s

/-- ALU.C100101: out = -1 (R179). -/
def execAluC100101 (a : Nat) (x y : Option Sig) (s : State) : Outcome :=
  aluRow 0b100101#6 a x y s

/-- ALU.C100110: out = !y (R179). -/
def execAluC100110 (a : Nat) (x y : Option Sig) (s : State) : Outcome :=
  aluRow 0b100110#6 a x y s

/-- ALU.C100111: out = y (R179). -/
def execAluC100111 (a : Nat) (x y : Option Sig) (s : State) : Outcome :=
  aluRow 0b100111#6 a x y s

/-- ALU.C101000: out = 0 (R179). -/
def execAluC101000 (a : Nat) (x y : Option Sig) (s : State) : Outcome :=
  aluRow 0b101000#6 a x y s

/-- ALU.C101001: out = -1 (R179). -/
def execAluC101001 (a : Nat) (x y : Option Sig) (s : State) : Outcome :=
  aluRow 0b101001#6 a x y s

/-- ALU.C101011: out = -1 (R179). -/
def execAluC101011 (a : Nat) (x y : Option Sig) (s : State) : Outcome :=
  aluRow 0b101011#6 a x y s

/-- ALU.C101100: out = 0 (R179). -/
def execAluC101100 (a : Nat) (x y : Option Sig) (s : State) : Outcome :=
  aluRow 0b101100#6 a x y s

/-- ALU.C101101: out = -1 (R179). -/
def execAluC101101 (a : Nat) (x y : Option Sig) (s : State) : Outcome :=
  aluRow 0b101101#6 a x y s

/-- ALU.C101110: out = -1 (R179). -/
def execAluC101110 (a : Nat) (x y : Option Sig) (s : State) : Outcome :=
  aluRow 0b101110#6 a x y s

/-- ALU.C101111: out = 0 (R179). -/
def execAluC101111 (a : Nat) (x y : Option Sig) (s : State) : Outcome :=
  aluRow 0b101111#6 a x y s

/-- ALU.C110100: out = !y (R179). -/
def execAluC110100 (a : Nat) (x y : Option Sig) (s : State) : Outcome :=
  aluRow 0b110100#6 a x y s

/-- ALU.C110101: out = y (R179). -/
def execAluC110101 (a : Nat) (x y : Option Sig) (s : State) : Outcome :=
  aluRow 0b110101#6 a x y s

/-- ALU.C110110: out = -y-2 (R179). -/
def execAluC110110 (a : Nat) (x y : Option Sig) (s : State) : Outcome :=
  aluRow 0b110110#6 a x y s

/-- ALU.C111000: out = 0 (R179). -/
def execAluC111000 (a : Nat) (x y : Option Sig) (s : State) : Outcome :=
  aluRow 0b111000#6 a x y s

/-- ALU.C111001: out = -1 (R179). -/
def execAluC111001 (a : Nat) (x y : Option Sig) (s : State) : Outcome :=
  aluRow 0b111001#6 a x y s

/-- ALU.C111011: out = 0 (R179). -/
def execAluC111011 (a : Nat) (x y : Option Sig) (s : State) : Outcome :=
  aluRow 0b111011#6 a x y s

/-- ALU.C111100: out = -1 (R179). -/
def execAluC111100 (a : Nat) (x y : Option Sig) (s : State) : Outcome :=
  aluRow 0b111100#6 a x y s

/-- ALU.C111101: out = 0 (R179). -/
def execAluC111101 (a : Nat) (x y : Option Sig) (s : State) : Outcome :=
  aluRow 0b111101#6 a x y s

/-- ALU.C111110: out = -2 (R179). -/
def execAluC111110 (a : Nat) (x y : Option Sig) (s : State) : Outcome :=
  aluRow 0b111110#6 a x y s

end Sys2Proof.Machine
end

