-- ==== Sys2Proof/Machine/Gates.lean ====
section
/-! DEFINITION. The nine gates' Updates. -/

namespace Sys2Proof.Machine

/-- NOT (40_primitive_gates.md R91). -/
def execNotGate (a : Option Sig) (s : State) : Outcome := gate1 not1 a s

/-- AND (R92). -/
def execAndGate (a b : Option Sig) (s : State) : Outcome := gate2 and1 a b s

/-- OR (R93). -/
def execOrGate (a b : Option Sig) (s : State) : Outcome := gate2 or1 a b s

/-- MUX: the unselected input is consumed like any other (41_composite_gates.md R101). -/
def execMuxGate (a b sel : Option Sig) (s : State) : Outcome :=
  check (need1 .a a) fun av =>
    check (need1 .b b) fun bv => check (need1 .sel sel) fun sv => .next (s.emit (.bit (mux1 av bv sv)))

/-- NOT16 (R104). -/
def execNot16 (a : Option Sig) (s : State) : Outcome := wide1 not16 a s

/-- AND16 (R105). -/
def execAnd16 (a b : Option Sig) (s : State) : Outcome := wide2 and16 a b s

/-- MUX16: one select line for all lanes (R106). -/
def execMux16 (a b sel : Option Sig) (s : State) : Outcome :=
  check (need16 .a a) fun aw =>
    check (need16 .b b) fun bw => check (need1 .sel sel) fun sv => .next (s.emit (.word (mux16 aw bw sv)))

/-- ADD16: wraps, no carry out, no overflow (R108). -/
def execAdd16 (a b : Option Sig) (s : State) : Outcome := wide2 add16 a b s

/-- OR8WAY (R110). -/
def execOr8way (in0 in1 in2 in3 in4 in5 in6 in7 : Option Sig) (s : State) : Outcome :=
  check (need1 .in0 in0) fun v0 => check (need1 .in1 in1) fun v1 =>
  check (need1 .in2 in2) fun v2 => check (need1 .in3 in3) fun v3 =>
  check (need1 .in4 in4) fun v4 => check (need1 .in5 in5) fun v5 =>
  check (need1 .in6 in6) fun v6 => check (need1 .in7 in7) fun v7 =>
    .next (s.emit (.bit (or8 v0 v1 v2 v3 v4 v5 v6 v7)))

end Sys2Proof.Machine
end

