-- ==== Sys2Proof/Machine/Storage.lean ====
section
/-! DEFINITION. The six operations of the clocked storage elements. -/

namespace Sys2Proof.Machine

/-- BIT.HOLD: `loadEnable = S(0)`; `input` is checked all the same (42_storage.md R120, R121). -/
def execBitHold (b : Nat) (input : Option Sig) (s : State) : Outcome := bitUpdate b input (some (.bit false)) s

/-- BIT.LOAD: `loadEnable = S(1)` (R120). -/
def execBitLoad (b : Nat) (input : Option Sig) (s : State) : Outcome := bitUpdate b input (some (.bit true)) s

/-- REG.HOLD: `loadEnable = S(0)`; `word` must be a valid vector all the same (R124, R125). -/
def execRegHold (r : Nat) (word : Option Sig) (fwd : Option Fwd) (s : State) : Outcome :=
  regUpdate r word (some (.bit false)) fwd s

/-- REG.LOAD: `loadEnable = S(1)` (R124). -/
def execRegLoad (r : Nat) (word : Option Sig) (fwd : Option Fwd) (s : State) : Outcome :=
  regUpdate r word (some (.bit true)) fwd s

/-- BIT.TICK (R122). -/
def execBitTick (b : Nat) (s : State) : Outcome := bitTick b s

/-- REG.TICK (R128). -/
def execRegTick (r : Nat) (s : State) : Outcome := regTick r s

end Sys2Proof.Machine
end

