-- ==== Sys2Proof/Machine/Dispatch.lean ====
section
/-! DEFINITION. One arm per constructor of Instr, each one call of that operation's meaning. -/

namespace Sys2Proof.Machine

-- An operation takes the Signals on its ports and the state, and ends in a next state, a fault or a refusal (R204).
def exec (i : Instr) (s : State) : Host.Outcome State Fault Refusal :=
  match i with
  | .aluZero a x y => Sys2Proof.Machine.execAluZero a x y s
  | .aluOne a x y => Sys2Proof.Machine.execAluOne a x y s
  | .aluNeg1 a x y => Sys2Proof.Machine.execAluNeg1 a x y s
  | .aluX a x y => Sys2Proof.Machine.execAluX a x y s
  | .aluY a x y => Sys2Proof.Machine.execAluY a x y s
  | .aluNotx a x y => Sys2Proof.Machine.execAluNotx a x y s
  | .aluNoty a x y => Sys2Proof.Machine.execAluNoty a x y s
  | .aluNegx a x y => Sys2Proof.Machine.execAluNegx a x y s
  | .aluNegy a x y => Sys2Proof.Machine.execAluNegy a x y s
  | .aluIncx a x y => Sys2Proof.Machine.execAluIncx a x y s
  | .aluIncy a x y => Sys2Proof.Machine.execAluIncy a x y s
  | .aluDecx a x y => Sys2Proof.Machine.execAluDecx a x y s
  | .aluDecy a x y => Sys2Proof.Machine.execAluDecy a x y s
  | .aluAdd a x y => Sys2Proof.Machine.execAluAdd a x y s
  | .aluSubxy a x y => Sys2Proof.Machine.execAluSubxy a x y s
  | .aluSubyx a x y => Sys2Proof.Machine.execAluSubyx a x y s
  | .aluAndxy a x y => Sys2Proof.Machine.execAluAndxy a x y s
  | .aluOrxy a x y => Sys2Proof.Machine.execAluOrxy a x y s
  | .aluC000001 a x y => Sys2Proof.Machine.execAluC000001 a x y s
  | .aluC000011 a x y => Sys2Proof.Machine.execAluC000011 a x y s
  | .aluC000100 a x y => Sys2Proof.Machine.execAluC000100 a x y s
  | .aluC000101 a x y => Sys2Proof.Machine.execAluC000101 a x y s
  | .aluC000110 a x y => Sys2Proof.Machine.execAluC000110 a x y s
  | .aluC001000 a x y => Sys2Proof.Machine.execAluC001000 a x y s
  | .aluC001001 a x y => Sys2Proof.Machine.execAluC001001 a x y s
  | .aluC001010 a x y => Sys2Proof.Machine.execAluC001010 a x y s
  | .aluC001011 a x y => Sys2Proof.Machine.execAluC001011 a x y s
  | .aluC010000 a x y => Sys2Proof.Machine.execAluC010000 a x y s
  | .aluC010001 a x y => Sys2Proof.Machine.execAluC010001 a x y s
  | .aluC010010 a x y => Sys2Proof.Machine.execAluC010010 a x y s
  | .aluC010100 a x y => Sys2Proof.Machine.execAluC010100 a x y s
  | .aluC010110 a x y => Sys2Proof.Machine.execAluC010110 a x y s
  | .aluC010111 a x y => Sys2Proof.Machine.execAluC010111 a x y s
  | .aluC011000 a x y => Sys2Proof.Machine.execAluC011000 a x y s
  | .aluC011001 a x y => Sys2Proof.Machine.execAluC011001 a x y s
  | .aluC011010 a x y => Sys2Proof.Machine.execAluC011010 a x y s
  | .aluC011011 a x y => Sys2Proof.Machine.execAluC011011 a x y s
  | .aluC011100 a x y => Sys2Proof.Machine.execAluC011100 a x y s
  | .aluC011101 a x y => Sys2Proof.Machine.execAluC011101 a x y s
  | .aluC011110 a x y => Sys2Proof.Machine.execAluC011110 a x y s
  | .aluC100000 a x y => Sys2Proof.Machine.execAluC100000 a x y s
  | .aluC100001 a x y => Sys2Proof.Machine.execAluC100001 a x y s
  | .aluC100010 a x y => Sys2Proof.Machine.execAluC100010 a x y s
  | .aluC100011 a x y => Sys2Proof.Machine.execAluC100011 a x y s
  | .aluC100100 a x y => Sys2Proof.Machine.execAluC100100 a x y s
  | .aluC100101 a x y => Sys2Proof.Machine.execAluC100101 a x y s
  | .aluC100110 a x y => Sys2Proof.Machine.execAluC100110 a x y s
  | .aluC100111 a x y => Sys2Proof.Machine.execAluC100111 a x y s
  | .aluC101000 a x y => Sys2Proof.Machine.execAluC101000 a x y s
  | .aluC101001 a x y => Sys2Proof.Machine.execAluC101001 a x y s
  | .aluC101011 a x y => Sys2Proof.Machine.execAluC101011 a x y s
  | .aluC101100 a x y => Sys2Proof.Machine.execAluC101100 a x y s
  | .aluC101101 a x y => Sys2Proof.Machine.execAluC101101 a x y s
  | .aluC101110 a x y => Sys2Proof.Machine.execAluC101110 a x y s
  | .aluC101111 a x y => Sys2Proof.Machine.execAluC101111 a x y s
  | .aluC110100 a x y => Sys2Proof.Machine.execAluC110100 a x y s
  | .aluC110101 a x y => Sys2Proof.Machine.execAluC110101 a x y s
  | .aluC110110 a x y => Sys2Proof.Machine.execAluC110110 a x y s
  | .aluC111000 a x y => Sys2Proof.Machine.execAluC111000 a x y s
  | .aluC111001 a x y => Sys2Proof.Machine.execAluC111001 a x y s
  | .aluC111011 a x y => Sys2Proof.Machine.execAluC111011 a x y s
  | .aluC111100 a x y => Sys2Proof.Machine.execAluC111100 a x y s
  | .aluC111101 a x y => Sys2Proof.Machine.execAluC111101 a x y s
  | .aluC111110 a x y => Sys2Proof.Machine.execAluC111110 a x y s
  | .bitHold b input => Sys2Proof.Machine.execBitHold b input s
  | .bitLoad b input => Sys2Proof.Machine.execBitLoad b input s
  | .regHold r word fwd => Sys2Proof.Machine.execRegHold r word fwd s
  | .regLoad r word fwd => Sys2Proof.Machine.execRegLoad r word fwd s
  | .bitTick b => Sys2Proof.Machine.execBitTick b s
  | .regTick r => Sys2Proof.Machine.execRegTick r s
  | .notGate a => Sys2Proof.Machine.execNotGate a s
  | .andGate a b => Sys2Proof.Machine.execAndGate a b s
  | .orGate a b => Sys2Proof.Machine.execOrGate a b s
  | .muxGate a b sel => Sys2Proof.Machine.execMuxGate a b sel s
  | .not16 a => Sys2Proof.Machine.execNot16 a s
  | .and16 a b => Sys2Proof.Machine.execAnd16 a b s
  | .mux16 a b sel => Sys2Proof.Machine.execMux16 a b sel s
  | .add16 a b => Sys2Proof.Machine.execAdd16 a b s
  | .or8way in0 in1 in2 in3 in4 in5 in6 in7 => Sys2Proof.Machine.execOr8way in0 in1 in2 in3 in4 in5 in6 in7 s

end Sys2Proof.Machine
end

