-- ==== Sys2Proof/Machine/Harness.lean ====
section
/-! DEFINITION. The harness: fetching the next line of its trace, putting the Signals on the ports, and issuing the
operation they select (30_encoding.md R70, R80). -/

namespace Sys2Proof.Machine

/-- What a line comes to once its Signals are known. -/
inductive Issued where
  /-- One operation of one element. -/
  | op (i : Instr)
  /-- The global clock edge. -/
  | edge
deriving DecidableEq, Repr

/-- The element a line addresses, or a refusal. -/
def needElement {α : Type} : Option α → Except Stop α
  | some e => .ok e
  | none => .error (.refused .noSuchElement)

/-- The slot a line forwards to, if it does, is one of the circuit's, or a refusal. -/
def needSlot (s : State) (fwd : Option Fwd) : Except Stop Unit :=
  if slotOk s.slots fwd then .ok () else .error (.refused .noSuchSlot)

/-- Bit.Update: the Signal on `loadEnable` selects HOLD or LOAD (R72). A bad Signal selects neither and the Update
raises, ports in order (42_storage.md R121). -/
def issueBit (s : State) (b : Nat) (input load : Option Sig) : Except Stop Instr := do
  let _ ← needElement s.bits[b]?
  let _ ← faulting (need1 .input input)
  let lv ← faulting (need1 .loadEnable load)
  pure (if lv then .bitLoad b input else .bitHold b input)

/-- Register.Update, likewise (R72, R125). -/
def issueReg (s : State) (r : Nat) (word load : Option Sig) (fwd : Option Fwd) : Except Stop Instr := do
  let _ ← needElement s.regs[r]?
  needSlot s fwd
  let _ ← faulting (need16 .word word)
  let lv ← faulting (need1 .loadEnable load)
  pure (if lv then .regLoad r word fwd else .regHold r word fwd)

/-- ALU.Update: the six flags its latches hold once the option list is in them are the control word, and that word is
the operation (R71, R77, 43_alu_pipeline.md R141; log 14). If a port check fails no word is selected: the Update raises
(R149). -/
def issueAlu (s : State) (a : Nat) (o : AluOpts) : Except Stop Instr := do
  let l ← needElement s.alus[a]?
  let p ← faulting (l.drive o).read
  pure (aluOfCtl p.ctl a o.x o.y)

/-- Puts the line's Signals on the ports, in port order, and selects the operation. -/
def issue (s : State) : Line → Except Stop Issued
  | .notGate a => do pure (.op (.notGate (← resolve s.outs .a a)))
  | .andGate a b => do pure (.op (.andGate (← resolve s.outs .a a) (← resolve s.outs .b b)))
  | .orGate a b => do pure (.op (.orGate (← resolve s.outs .a a) (← resolve s.outs .b b)))
  | .muxGate a b sel => do
    pure (.op (.muxGate (← resolve s.outs .a a) (← resolve s.outs .b b) (← resolve s.outs .sel sel)))
  | .not16 a => do pure (.op (.not16 (← resolve s.outs .a a)))
  | .and16 a b => do pure (.op (.and16 (← resolve s.outs .a a) (← resolve s.outs .b b)))
  | .mux16 a b sel => do
    pure (.op (.mux16 (← resolve s.outs .a a) (← resolve s.outs .b b) (← resolve s.outs .sel sel)))
  | .add16 a b => do pure (.op (.add16 (← resolve s.outs .a a) (← resolve s.outs .b b)))
  | .or8way i0 i1 i2 i3 i4 i5 i6 i7 => do
    pure (.op (.or8way (← resolve s.outs .in0 i0) (← resolve s.outs .in1 i1) (← resolve s.outs .in2 i2)
      (← resolve s.outs .in3 i3) (← resolve s.outs .in4 i4) (← resolve s.outs .in5 i5)
      (← resolve s.outs .in6 i6) (← resolve s.outs .in7 i7)))
  | .bitUpdate b input load => do
    let input ← resolve s.outs .input input
    let load ← resolve s.outs .loadEnable load
    pure (.op (← issueBit s b input load))
  | .regUpdate r word load fwd => do
    let word ← resolve s.outs .word word
    let load ← resolve s.outs .loadEnable load
    pure (.op (← issueReg s r word load fwd))
  | .aluUpdate a x y zx nx zy ny f no => do
    let o : AluOpts := ⟨← resolve s.outs .x x, ← resolve s.outs .y y, ← resolve s.outs .zx zx,
      ← resolve s.outs .nx nx, ← resolve s.outs .zy zy, ← resolve s.outs .ny ny, ← resolve s.outs .f f,
      ← resolve s.outs .no no⟩
    pure (.op (← issueAlu s a o))
  | .bitTick b => .ok (.op (.bitTick b))
  | .regTick r => .ok (.op (.regTick r))
  | .tick => .ok .edge

/-- Runs one line: the operation it issues, or the edge, or the stop its Signals lead to. -/
def runLine (l : Line) (s : State) : Outcome :=
  match issue s l with
  | .ok (.op i) => exec i s
  | .ok .edge => .next s.globalTick
  | .error (.fault f) => .fault f
  | .error (.refused r) => .refused r

/-- Takes the next line off the trace. With no line left the run is over (70_reset_and_hazards.md R247). -/
def fetch (s : State) : Except Refusal (Line × State) :=
  match s.todo with
  | [] => .error .endOfTrace
  | b :: bytes =>
    match decodeLine (b :: bytes) with
    | .error e => .error (.illFormed e)
    | .ok (l, rest) => .ok (l, { s with todo := rest })

/-- The state with a table word's bytes as the trace (log 6). -/
def placeTableWord (s : State) (nbits w : Nat) : State := { s with todo := tableBytes nbits w }

end Sys2Proof.Machine
end

