-- ==== Sys2Proof/Machine/Step.lean ====
section
/-! DEFINITION. One step of a run: the next line of the harness's trace. -/

namespace Sys2Proof.Machine

/-- Fetches the next line and runs it. -/
def step (s : State) : Host.Outcome State Fault Refusal :=
  match fetch s with
  | .error r => .refused r
  | .ok (l, s') => runLine l s'

/-- The state with the operation of a table word as the next line of the trace (log 6). -/
def State.withFetchWord (s : State) (nbits w : Nat) : State := placeTableWord s nbits w

end Sys2Proof.Machine
end

