-- ==== Sys2Proof/Safety.lean ====
section
/-! DEFINITION. The terms claims are stated in: how an outcome ended, what the result of a run is, sequences of
operations, and the invariant of the ALUs' latches. -/

namespace Sys2Proof.Machine

/-- The next state, if the outcome is one. -/
def nextOf : Outcome → Option State
  | .next s => some s
  | _ => none

/-- The fault, if the outcome is one. -/
def faultOf : Outcome → Option Fault
  | .fault f => some f
  | _ => none

/-- The refusal, if the outcome is one. -/
def refusalOf : Outcome → Option Refusal
  | .refused r => some r
  | _ => none

/-- Operations one after the other, ending at the first that does not answer a next state. -/
def execAll : List Instr → State → Outcome
  | [], s => .next s
  | i :: rest, s =>
    match exec i s with
    | .next t => execAll rest t
    | stop => stop

/-- What the last line returned, if the outcome is a next state. -/
def outOf (o : Outcome) : Option Outputs := (nextOf o).bind fun s => s.outs.head?

/-- The operations that commit: Bit.Tick and Register.Tick (R122, R128). -/
def isTick : Instr → Bool
  | .bitTick _ | .regTick _ => true
  | _ => false

/-- The result of a completed run: every `cur`, the outputs returned and the Forward events, oldest first;
`pend` and the ALU latches are no part of it (70_reset_and_hazards.md R247). -/
structure RunResult where
  words : List Word
  bits : List Bool
  outs : List Outputs
  events : List ForwardEvent
deriving DecidableEq, Repr

/-- The trace is exhausted: together with having come here by next states alone, a completed run (R247). -/
def State.completed (s : State) : Bool := s.todo.isEmpty

/-- What a run that ends here has for its result (R247). -/
def State.result (s : State) : RunResult :=
  ⟨s.regs.map RegCell.cur, s.bits.map BitCell.cur, s.outs.reverse, s.events.reverse⟩

/-- A Signal that is a vector. -/
def isWord : Sig → Bool
  | .word _ => true
  | _ => false

/-- A Signal that is one bit. -/
def isBit : Sig → Bool
  | .bit _ => true
  | _ => false

/-- Every latch holds a Signal of its port's width. -/
def Latches.valid (l : Latches) : Bool :=
  isWord l.x && isWord l.y && isBit l.zx && isBit l.nx && isBit l.zy && isBit l.ny && isBit l.f && isBit l.no

/-- The latches that hold exactly the given eight values. -/
def AluIn.latches (p : AluIn) : Latches :=
  ⟨.word p.x, .word p.y, .bit p.zx, .bit p.nx, .bit p.zy, .bit p.ny, .bit p.f, .bit p.no⟩

/-- The values at the ALU's ports under a control word (30_encoding.md R71). -/
def AluIn.ofCtl (c : Ctl) (x y : Word) : AluIn :=
  ⟨x, y, ctlFlag c 5, ctlFlag c 4, ctlFlag c 3, ctlFlag c 2, ctlFlag c 1, ctlFlag c 0⟩

/-- An ALU has either seen no Update or holds eight Signals of the right widths: an Update that leaves anything else in
its latches has raised (10_state.md R35, 43_alu_pipeline.md R149). -/
def Latches.settled (l : Latches) : Bool := decide (l = Latches.fresh) || l.valid

/-- The invariant of every run: each ALU's latches are settled. -/
def State.inv (s : State) : Bool := s.alus.all Latches.settled

/-! ### Ports and their failures -/

/-- One port of an operation: its name, whether it is 16 bits wide, and what the harness supplies. -/
structure PortCheck where
  name : Port
  wide : Bool
  given : Option Sig
deriving DecidableEq, Repr

/-- How a port fails, if it does (60_exceptions.md R201, R202, R206). -/
def PortCheck.fault (c : PortCheck) : Option Fault :=
  match c.given with
  | none | some .invalid => some (.uninitializedSignal c.name)
  | some (.bit _) => if c.wide then some (.invalidWidth c.name) else none
  | some (.word _) => if c.wide then none else some (.invalidWidth c.name)

/-- The failure of the first port that fails, in port-list order (R206). -/
def firstFault (ports : List PortCheck) : Option Fault := ports.findSome? PortCheck.fault

/-- The ports of a gate, in port-list order (30_encoding.md R74); `none` for the other operations. -/
def gatePorts : Instr → Option (List PortCheck)
  | .notGate a => some [⟨.a, false, a⟩]
  | .andGate a b | .orGate a b => some [⟨.a, false, a⟩, ⟨.b, false, b⟩]
  | .muxGate a b sel => some [⟨.a, false, a⟩, ⟨.b, false, b⟩, ⟨.sel, false, sel⟩]
  | .not16 a => some [⟨.a, true, a⟩]
  | .and16 a b | .add16 a b => some [⟨.a, true, a⟩, ⟨.b, true, b⟩]
  | .mux16 a b sel => some [⟨.a, true, a⟩, ⟨.b, true, b⟩, ⟨.sel, false, sel⟩]
  | .or8way i0 i1 i2 i3 i4 i5 i6 i7 =>
    some [⟨.in0, false, i0⟩, ⟨.in1, false, i1⟩, ⟨.in2, false, i2⟩, ⟨.in3, false, i3⟩, ⟨.in4, false, i4⟩,
      ⟨.in5, false, i5⟩, ⟨.in6, false, i6⟩, ⟨.in7, false, i7⟩]
  | _ => none

/-- The ports of a Bit (R74, R121). -/
def bitPorts (input load : Option Sig) : List PortCheck := [⟨.input, false, input⟩, ⟨.loadEnable, false, load⟩]

/-- The ports of a Register (R74, R125). -/
def regPorts (word load : Option Sig) : List PortCheck := [⟨.word, true, word⟩, ⟨.loadEnable, false, load⟩]

/-- The ports of an ALU, as its latches hold them after the option list (R74, R149). -/
def aluPorts (l : Latches) : List PortCheck :=
  [⟨.x, true, some l.x⟩, ⟨.y, true, some l.y⟩, ⟨.zx, false, some l.zx⟩, ⟨.nx, false, some l.nx⟩,
    ⟨.zy, false, some l.zy⟩, ⟨.ny, false, some l.ny⟩, ⟨.f, false, some l.f⟩, ⟨.no, false, some l.no⟩]

/-- An Update whose ports are these raises the first failure and nothing else, and completes if there is none. -/
def RaisesFirst (ports : List PortCheck) (outcome : Outcome) : Prop :=
  (∀ f, outcome = .fault f ↔ firstFault ports = some f) ∧
    (firstFault ports = none → ∃ t, outcome = .next t)

/-! ### Lines with every Signal written out -/

/-- `BIT b (input, loadEnable)`. -/
def bitLine (b : Nat) (input load : Option Sig) : Line := .bitUpdate b (.ofSig input) (.ofSig load)

/-- `REG r (word, loadEnable [, fwd])`. -/
def regLine (r : Nat) (word load : Option Sig) (fwd : Option Fwd) : Line :=
  .regUpdate r (.ofSig word) (.ofSig load) fwd

/-- `ALU a (opts)`. -/
def optsLine (a : Nat) (o : AluOpts) : Line :=
  .aluUpdate a (.ofSig o.x) (.ofSig o.y) (.ofSig o.zx) (.ofSig o.nx) (.ofSig o.zy) (.ofSig o.ny) (.ofSig o.f)
    (.ofSig o.no)

/-! ### Lines as they are wired -/

/-- The arguments of a line with the ports they drive, in port-list order (30_encoding.md R74). -/
def lineArgs : Line → List (Port × Arg)
  | .notGate a | .not16 a => [(.a, a)]
  | .andGate a b | .orGate a b | .and16 a b | .add16 a b => [(.a, a), (.b, b)]
  | .muxGate a b sel | .mux16 a b sel => [(.a, a), (.b, b), (.sel, sel)]
  | .or8way i0 i1 i2 i3 i4 i5 i6 i7 =>
    [(.in0, i0), (.in1, i1), (.in2, i2), (.in3, i3), (.in4, i4), (.in5, i5), (.in6, i6), (.in7, i7)]
  | .bitUpdate _ input load => [(.input, input), (.loadEnable, load)]
  | .regUpdate _ word load _ => [(.word, word), (.loadEnable, load)]
  | .aluUpdate _ x y zx nx zy ny f no =>
    [(.x, x), (.y, y), (.zx, zx), (.nx, nx), (.zy, zy), (.ny, ny), (.f, f), (.no, no)]
  | .bitTick _ | .regTick _ | .tick => []

/-- The line with the argument of every port rewritten. -/
def rewire (change : Port → Arg → Arg) : Line → Line
  | .notGate a => .notGate (change .a a)
  | .andGate a b => .andGate (change .a a) (change .b b)
  | .orGate a b => .orGate (change .a a) (change .b b)
  | .muxGate a b sel => .muxGate (change .a a) (change .b b) (change .sel sel)
  | .not16 a => .not16 (change .a a)
  | .and16 a b => .and16 (change .a a) (change .b b)
  | .mux16 a b sel => .mux16 (change .a a) (change .b b) (change .sel sel)
  | .add16 a b => .add16 (change .a a) (change .b b)
  | .or8way i0 i1 i2 i3 i4 i5 i6 i7 =>
    .or8way (change .in0 i0) (change .in1 i1) (change .in2 i2) (change .in3 i3) (change .in4 i4) (change .in5 i5)
      (change .in6 i6) (change .in7 i7)
  | .bitUpdate b input load => .bitUpdate b (change .input input) (change .loadEnable load)
  | .regUpdate r word load fwd => .regUpdate r (change .word word) (change .loadEnable load) fwd
  | .aluUpdate a x y zx nx zy ny f no =>
    .aluUpdate a (change .x x) (change .y y) (change .zx zx) (change .nx nx) (change .zy zy) (change .ny ny)
      (change .f f) (change .no no)
  | .bitTick b => .bitTick b
  | .regTick r => .regTick r
  | .tick => .tick

/-- The source carries the Signal: it is that Signal written out, or an output port of an earlier line that returned it,
or a bit of the word an earlier line returned on `out` (R80). -/
def SrcCarries (outs : List Outputs) : Src → Sig → Prop
  | .sig g, h => h = g
  | .out back port, h => ∃ o, outs[back]? = some o ∧ o.port port = some h
  | .bitOf back i, h => ∃ o w, outs[back]? = some o ∧ o.port .out = some (.word w) ∧ h = .bit (w.getLsbD i)

/-- The argument carries the Signal: its source does, or its sixteen lanes carry the bits of that vector (20_memory.md
R53). -/
def ArgCarries (outs : List Outputs) : Arg → Sig → Prop
  | .absent, _ => False
  | .src x, h => SrcCarries outs x h
  | .bundle lanes, h => ∃ w : Word, h = .word w ∧ lanes.length = 16 ∧
      ∀ i x, lanes[i]? = some x → SrcCarries outs x (.bit (w.getLsbD i))

/-- The source refers to an output that does not exist: no such line, no such port of it, or no word to take a bit of. -/
def SrcMissing (outs : List Outputs) : Src → Prop
  | .sig _ => False
  | .out back port => ∀ o, outs[back]? = some o → o.port port = none
  | .bitOf back _ => ∀ o, outs[back]? = some o → ∀ w, o.port .out ≠ some (.word w)

/-- The argument refers to an output that does not exist, in a lane if it is a bundle. -/
def ArgMissing (outs : List Outputs) : Arg → Prop
  | .absent => False
  | .src x => SrcMissing outs x
  | .bundle lanes => ∃ x ∈ lanes, SrcMissing outs x

/-- The argument is sound wiring: it puts some Signal on its port, or leaves it unnamed. -/
def Wired (s : State) (arg : Port × Arg) : Prop := ∃ g, resolve s.outs arg.1 arg.2 = .ok g

/-- The line addresses an element the circuit does not have (10_state.md R26, R37). -/
def ElementMissing (s : State) : Line → Prop
  | .bitUpdate b _ _ | .bitTick b => s.bits.length ≤ b
  | .regUpdate r _ _ _ | .regTick r => s.regs.length ≤ r
  | .aluUpdate a _ _ _ _ _ _ _ _ => s.alus.length ≤ a
  | _ => False

/-! ### The ALU -/

/-- The operation `mk` has the control word `zx nx zy ny f no` and computes `fn`: on every ALU of every state whose
latches hold words for `x` and `y` once those supplied are in them, it answers the next state in which the latches hold
the operands and the control word, the outputs are `fn`, its zero flag and its sign, and nothing else has changed. -/
def Computes (mk : Nat → Option Sig → Option Sig → Instr) (zx nx zy ny f no : Bool) (fn : Word → Word → Word) : Prop :=
  ∀ (a : Nat) (x y : Option Sig) (s : State) (l : Latches) (xw yw : Word),
    s.alus[a]? = some l → x.getD l.x = .word xw → y.getD l.y = .word yw →
      exec (mk a x y) s = .next { s with
        alus := s.alus.set a ⟨.word xw, .word yw, .bit zx, .bit nx, .bit zy, .bit ny, .bit f, .bit no⟩
        outs := .alu (fn xw yw) (decide (fn xw yw = 0#16)) ((fn xw yw).getLsbD 15) :: s.outs }

/-- The function a control word computes (44_alu_operations.md R179). -/
def aluFn (c : Ctl) (x y : Word) : Word := (AluIn.ofCtl c x y).out

/-- The control words that are aliases of one another, with the function they share (R180). -/
def aliasTable : List (List Ctl × (Word → Word → Word)) :=
  [([0x08#6, 0x18#6, 0x20#6, 0x24#6, 0x28#6, 0x2A#6, 0x2C#6, 0x2F#6, 0x38#6, 0x3B#6, 0x3D#6], fun _ _ => 0#16),
   ([0x09#6, 0x19#6, 0x21#6, 0x25#6, 0x29#6, 0x2B#6, 0x2D#6, 0x2E#6, 0x39#6, 0x3A#6, 0x3C#6], fun _ _ => -1#16),
   ([0x0A#6, 0x0C#6, 0x1B#6, 0x1D#6], fun x _ => x), ([0x0B#6, 0x0D#6, 0x1A#6, 0x1C#6], fun x _ => ~~~x),
   ([0x22#6, 0x27#6, 0x30#6, 0x35#6], fun _ y => y), ([0x23#6, 0x26#6, 0x31#6, 0x34#6], fun _ y => ~~~y)]

/-! ### Which element an operation addresses -/

/-- The operation is an Update of Register `r`. -/
def updatesReg (r : Nat) : Instr → Bool
  | .regHold q _ _ | .regLoad q _ _ => q == r
  | _ => false

/-- The operation is an Update of free-standing Bit `b`. -/
def updatesBit (b : Nat) : Instr → Bool
  | .bitHold q _ | .bitLoad q _ => q == b
  | _ => false

/-- REG.HOLD or REG.LOAD by the load bit. -/
def regRow (load : Bool) (r : Nat) (word : Word) (fwd : Option Fwd) : Instr :=
  if load then .regLoad r (some (.word word)) fwd else .regHold r (some (.word word)) fwd

/-- BIT.HOLD or BIT.LOAD by the load bit. -/
def bitRow (load : Bool) (b : Nat) (input : Bool) : Instr :=
  if load then .bitLoad b (some (.bit input)) else .bitHold b (some (.bit input))

/-- The operation commits Register `r`. -/
def ticksReg (r : Nat) : Instr → Bool
  | .regTick q => q == r
  | _ => false

/-- The operation commits free-standing Bit `b`. -/
def ticksBit (b : Nat) : Instr → Bool
  | .bitTick q => q == b
  | _ => false

/-- The committed words and bits of a state: what every read returns (10_state.md R23, R25). -/
def State.committed (s : State) : List Word × List Bool := (s.regs.map RegCell.cur, s.bits.map BitCell.cur)

/-- The staged words and bits of a state (R23). -/
def State.staged (s : State) : List Word × List Bool := (s.regs.map RegCell.pend, s.bits.map BitCell.pend)

/-- The wires of ADD16's trees: port `i` is `a[i]`, port `16 + i` is `b[i]`. -/
def adderWires (a b : Word) (k : Nat) : Option Sig :=
  some (.bit (if k < 16 then a.getLsbD k else b.getLsbD (k - 16)))

/-- The wires of a tree over a list of ports. -/
def listWires (ports : List (Option Sig)) (k : Nat) : Option Sig := (ports[k]?).getD none

end Sys2Proof.Machine
end

