-- ==== Sys2Proof/Certificates/Slice0/Obligations.lean ====
section
/-! DEFINITION. The statements about the model, each a proposition for the provers. A next state is written out as an
update of the state before, so that what is not named in it has not changed. -/

open Sys2Proof Sys2Proof.Machine

/-! ### Gates -/

/-- The three primitives complete on valid Signals, return their truth-table value and change nothing else
(40_primitive_gates.md R91 to R93). -/
def Obligations.PrimitiveGatesComputeTheirTruthTables : Prop :=
  ∀ (s : State) (a b : Bool),
    exec (.notGate (some (.bit a))) s = .next { s with outs := .bit (!a) :: s.outs } ∧
    exec (.andGate (some (.bit a)) (some (.bit b))) s = .next { s with outs := .bit (a && b) :: s.outs } ∧
    exec (.orGate (some (.bit a)) (some (.bit b))) s = .next { s with outs := .bit (a || b) :: s.outs }

/-- MUX and OR8WAY complete on valid Signals and change nothing but the outputs (41_composite_gates.md R101, R110). -/
def Obligations.MuxAndOr8wayCompute : Prop :=
  ∀ (s : State) (a b sel : Bool) (i0 i1 i2 i3 i4 i5 i6 i7 : Bool),
    exec (.muxGate (some (.bit a)) (some (.bit b)) (some (.bit sel))) s =
      .next { s with outs := .bit ((a && !sel) || (sel && b)) :: s.outs } ∧
    exec (.or8way (some (.bit i0)) (some (.bit i1)) (some (.bit i2)) (some (.bit i3)) (some (.bit i4))
        (some (.bit i5)) (some (.bit i6)) (some (.bit i7))) s =
      .next { s with outs := .bit (i0 || i1 || i2 || i3 || i4 || i5 || i6 || i7) :: s.outs }

/-- R102, the MUX identity, of MUX as it runs. -/
def Obligations.MuxSelectsByItsSelect : Prop :=
  ∀ (s : State) (a b : Bool),
    outOf (exec (.muxGate (some (.bit a)) (some (.bit b)) (some (.bit false))) s) = some (.bit a) ∧
    outOf (exec (.muxGate (some (.bit a)) (some (.bit b)) (some (.bit true))) s) = some (.bit b) ∧
    ((a && true) || (false && b)) = a ∧ ((a && false) || (true && b)) = b

/-- NOT16, AND16 and MUX16 complete on valid Signals; every lane of the output is the 1-bit gate's output on that lane
of the inputs, MUX16 with the one select on every lane; nothing else changes (R103 to R106). -/
def Obligations.LaneGatesApplyTheOneBitGatePerLane : Prop :=
  ∀ (s : State) (a b : Word) (sel : Bool),
    ∃ n c m : Word,
      exec (.not16 (some (.word a))) s = .next { s with outs := .word n :: s.outs } ∧
      exec (.and16 (some (.word a)) (some (.word b))) s = .next { s with outs := .word c :: s.outs } ∧
      exec (.mux16 (some (.word a)) (some (.word b)) (some (.bit sel))) s =
        .next { s with outs := .word m :: s.outs } ∧
      ∀ i, i < 16 →
        outOf (exec (.notGate (some (.bit (a.getLsbD i)))) s) = some (.bit (n.getLsbD i)) ∧
        outOf (exec (.andGate (some (.bit (a.getLsbD i))) (some (.bit (b.getLsbD i)))) s) =
          some (.bit (c.getLsbD i)) ∧
        outOf (exec (.muxGate (some (.bit (a.getLsbD i))) (some (.bit (b.getLsbD i))) (some (.bit sel))) s) =
          some (.bit (m.getLsbD i))

/-- NOT16, AND16 and MUX16 as operations on whole words (R104 to R106). -/
def Obligations.LaneGatesComputeWholeWords : Prop :=
  ∀ (s : State) (a b : Word) (sel : Bool),
    exec (.not16 (some (.word a))) s = .next { s with outs := .word (~~~a) :: s.outs } ∧
    exec (.and16 (some (.word a)) (some (.word b))) s = .next { s with outs := .word (a &&& b) :: s.outs } ∧
    exec (.mux16 (some (.word a)) (some (.word b)) (some (.bit sel))) s =
      .next { s with outs := .word (if sel then b else a) :: s.outs }

/-- ADD16 completes on words, its output is the sum modulo 65536, and nothing else changes: no carry, no overflow
(R108). -/
def Obligations.Add16AddsModulo65536 : Prop :=
  ∀ (s : State) (a b : Word),
    exec (.add16 (some (.word a)) (some (.word b))) s =
      .next { s with outs := .word (BitVec.ofNat 16 ((a.toNat + b.toNat) % 65536)) :: s.outs }

/-- The cells of the adder are the trees of R107 (the spec's own decision D16), their sum is the parity and their carry
the majority. -/
def Obligations.FullAdderCellsAddThreeBits : Prop :=
  ∀ p q c : Bool,
    xorCell p q = or1 (and1 p (not1 q)) (and1 (not1 p) q) ∧
    sumCell p q c = xorCell (xorCell p q) c ∧
    carryCell p q c = or1 (and1 p q) (and1 c (xorCell p q)) ∧
    (sumCell p q c = true ↔ (p.toNat + q.toNat + c.toNat) % 2 = 1) ∧
    (carryCell p q c = true ↔ 2 ≤ p.toNat + q.toNat + c.toNat)

/-- The integer laws of the block's arithmetic, of the gates NOT16 and ADD16 (41_composite_gates.md R109, items 1 to 6):
unsigned wrap, signed wrap with silent overflow, commutativity, associativity, zero, negation, subtraction. -/
def Obligations.AdderObeysTheIntegerLaws : Prop :=
  ∀ a b c : Word,
    (add16 a b).toNat = (a.toNat + b.toNat) % 2 ^ 16 ∧
    (-32768 ≤ a.toInt + b.toInt ∧ a.toInt + b.toInt ≤ 32767 → (add16 a b).toInt = a.toInt + b.toInt) ∧
    (32767 < a.toInt + b.toInt → (add16 a b).toInt = a.toInt + b.toInt - 65536) ∧
    (a.toInt + b.toInt < -32768 → (add16 a b).toInt = a.toInt + b.toInt + 65536) ∧
    add16 a b = add16 b a ∧ add16 (add16 a b) c = add16 a (add16 b c) ∧ add16 a zero16 = a ∧
    add16 a (not16 a) = 0xFFFF#16 ∧ -a = add16 (not16 a) 1#16 ∧ -a = not16 (add16 a 0xFFFF#16) ∧
    a - b = not16 (add16 (not16 a) b) ∧ not16 (add16 a b) = add16 (add16 (not16 a) (not16 b)) 1#16

/-- The gate identity of R94, run through the gates: OR returns what NOT of AND of the two NOTs returns. -/
def Obligations.OrIsNotOfAndOfNots : Prop :=
  ∀ (s : State) (a b : Bool),
    ∃ na nb c d : Bool,
      outOf (exec (.notGate (some (.bit a))) s) = some (.bit na) ∧
      outOf (exec (.notGate (some (.bit b))) s) = some (.bit nb) ∧
      outOf (exec (.andGate (some (.bit na)) (some (.bit nb))) s) = some (.bit c) ∧
      outOf (exec (.notGate (some (.bit c))) s) = some (.bit d) ∧
      outOf (exec (.orGate (some (.bit a)) (some (.bit b))) s) = some (.bit d)

/-- MUX and OR8WAY agree with a tree whose leaves are NOT, AND and OR Updates on every Signal, the error cases
included: the tree settles to a value exactly where the gate returns it, and raises exactly where the gate raises
(40_primitive_gates.md R94). That there is no short-circuit, and that a port left out raises, are the spec's own
decisions D12 (log 24) and D10 (R90). -/
def Obligations.OneBitCompositesAgreeWithTheirTrees : Prop :=
  ∀ (s : State) (a b sel : Option Sig) (i0 i1 i2 i3 i4 i5 i6 i7 : Option Sig),
    (∀ v : Bool, muxTree.update (listWires [a, b, sel]) = .ok (some (.bit v)) ↔
      outOf (exec (.muxGate a b sel) s) = some (.bit v)) ∧
    ((∃ f, muxTree.update (listWires [a, b, sel]) = .error f) ↔ ∃ f, exec (.muxGate a b sel) s = .fault f) ∧
    (∀ v : Bool, or8Tree.update (listWires [i0, i1, i2, i3, i4, i5, i6, i7]) = .ok (some (.bit v)) ↔
      outOf (exec (.or8way i0 i1 i2 i3 i4 i5 i6 i7) s) = some (.bit v)) ∧
    ((∃ f, or8Tree.update (listWires [i0, i1, i2, i3, i4, i5, i6, i7]) = .error f) ↔
      ∃ f, exec (.or8way i0 i1 i2 i3 i4 i5 i6 i7) s = .fault f)

/-- Every lane of ADD16's output is what the carry-chain tree of that lane settles to. That the cells are those of the
tree, and the carry into lane 0 is 0, is the spec's own decision D16 (log 22); the source says only "a carry-chain of
full-adders built from primitive gates" (41_composite_gates.md). -/
def Obligations.AdderAgreesWithItsCarryChainTrees : Prop :=
  ∀ (s : State) (a b : Word),
    ∃ o : Word, exec (.add16 (some (.word a)) (some (.word b))) s = .next { s with outs := .word o :: s.outs } ∧
      ∀ i, i < 16 → (sumTree i).update (adderWires a b) = .ok (some (.bit (o.getLsbD i)))

/-! ### Errors -/

/-- R206, for every element: the first failing port in port-list order decides the fault, `Invalid` raising
UninitializedSignal and a wrong width InvalidWidth; without a failing port the Update completes. The ALU's ports are
its latches after the option list (kept latches are the spec's own decision D7, log 20). The order is its decision D13
(log 11), that every port is checked whatever the others carry its decision D12 (log 24). A port left out raises
UninitializedSignal: of a gate this is the spec's decision D10 (R90), of a Bit and a Register it is the model's own
deduction (log 12), the spec being silent. That an Update that forwards completes, the send never blocking, is the
spec's decision D23 (log 16). -/
def Obligations.FirstFailingPortDecidesTheFault : Prop :=
  (∀ (i : Instr) (ports : List PortCheck) (s : State), gatePorts i = some ports → RaisesFirst ports (exec i s)) ∧
  (∀ (b : Nat) (input load : Option Sig) (s : State) (c : BitCell), s.bits[b]? = some c →
    RaisesFirst (bitPorts input load) (runLine (bitLine b input load) s)) ∧
  (∀ (r : Nat) (word load : Option Sig) (fwd : Option Fwd) (s : State) (c : RegCell), s.regs[r]? = some c →
    slotOk s.slots fwd = true → RaisesFirst (regPorts word load) (runLine (regLine r word load fwd) s)) ∧
  (∀ (a : Nat) (o : AluOpts) (s : State) (l : Latches), s.alus[a]? = some l →
    RaisesFirst (aluPorts (l.drive o)) (runLine (optsLine a o) s)) ∧
  (∀ (c : PortCheck) (f g : Fault), c.fault = some f → c.fault = some g → f = g)

/-- The table rows of Bit, Register and ALU raise by the same order, with the control port at the row's own bits
(42_storage.md R121, R125, 43_alu_pipeline.md R149; the order is the spec's own decision D13, log 11; that every port
is checked, decision D12, log 24; an ALU port left out keeps its latch, decision D7, log 20). That an input or word
left out raises UninitializedSignal is not said by R121 or R125: it is the model's own deduction (log 12). That a
Register row that forwards completes, the send never blocking, is the spec's decision D23 (log 16). -/
def Obligations.RowsRaiseInPortOrder : Prop :=
  (∀ (b : Nat) (input : Option Sig) (s : State) (c : BitCell), s.bits[b]? = some c →
    RaisesFirst (bitPorts input (some (.bit false))) (exec (.bitHold b input) s) ∧
    RaisesFirst (bitPorts input (some (.bit true))) (exec (.bitLoad b input) s)) ∧
  (∀ (r : Nat) (word : Option Sig) (fwd : Option Fwd) (s : State) (c : RegCell), s.regs[r]? = some c →
    slotOk s.slots fwd = true →
    RaisesFirst (regPorts word (some (.bit false))) (exec (.regHold r word fwd) s) ∧
    RaisesFirst (regPorts word (some (.bit true))) (exec (.regLoad r word fwd) s)) ∧
  (∀ (c : Ctl) (a : Nat) (x y : Option Sig) (s : State) (l : Latches), s.alus[a]? = some l →
    RaisesFirst (aluPorts (l.drive (rowOpts c x y))) (exec (aluOfCtl c a x y) s))

/-- R208 (the spec's own decision D29): Tick raises nothing, of one element or of all, in any state. -/
def Obligations.TicksRaiseNothing : Prop :=
  ∀ (s : State) (b r : Nat) (f : Fault),
    exec (.bitTick b) s ≠ .fault f ∧ exec (.regTick r) s ≠ .fault f ∧ runLine .tick s ≠ .fault f

/-- No step of any state ends in Deadlock. That every lane replies exactly once, so that Deadlock is unreachable, is what
the spec derives (42_storage.md, the reply obligation) and decides (D15, log 13). -/
def Obligations.NoStepDeadlocks : Prop :=
  ∀ (s : State) (lane : Nat), step s ≠ .fault (.deadlock lane)

/-- The join of Register.Update raises Deadlock with the index of a lane that has not replied, and only then
(60_exceptions.md R203). That the lowest missing index is named is the model's choice (log 13). -/
def Obligations.MissingLaneReplyIsDeadlock : Prop :=
  ∀ replies : List (Nat × Bool),
    (∀ lane, collect replies = .error (.deadlock lane) →
      lane < 16 ∧ ∀ v, (lane, v) ∉ replies) ∧
    ((∃ lane, lane < 16 ∧ ∀ v, (lane, v) ∉ replies) → ∃ lane, collect replies = .error (.deadlock lane)) ∧
    ((∀ lane, lane < 16 → ∃ v, (lane, v) ∈ replies) → ∃ w, collect replies = .ok w)

/-! ### Bits and Registers -/

/-- BIT.HOLD and BIT.LOAD complete on a valid input, return the committed value, stage the committed value or the input,
and change nothing else (42_storage.md R120). -/
def Obligations.BitUpdateReturnsCurrentAndStages : Prop :=
  ∀ (b : Nat) (input : Bool) (s : State) (c : BitCell), s.bits[b]? = some c →
    exec (.bitHold b (some (.bit input))) s =
      .next { s with bits := s.bits.set b ⟨c.cur, c.cur⟩, outs := .bit c.cur :: s.outs } ∧
    exec (.bitLoad b (some (.bit input))) s =
      .next { s with bits := s.bits.set b ⟨c.cur, input⟩, outs := .bit c.cur :: s.outs }

/-- BIT.TICK and REG.TICK complete, commit what is staged, leave it staged, return nothing and change nothing else; with
nothing newly staged they hold (R122, R128). -/
def Obligations.TickCommitsWhatIsStaged : Prop :=
  (∀ (b : Nat) (s : State) (c : BitCell), s.bits[b]? = some c →
    exec (.bitTick b) s =
      .next { s with bits := s.bits.set b ⟨c.pend, c.pend⟩, outs := .nothing :: s.outs }) ∧
  (∀ (r : Nat) (s : State) (c : RegCell), s.regs[r]? = some c →
    exec (.regTick r) s =
      .next { s with regs := s.regs.set r ⟨c.pend, c.pend⟩, outs := .nothing :: s.outs })

/-- REG.HOLD and REG.LOAD complete on a valid word, return the committed word, stage the committed word or the input
word whole, emit one Forward event with the returned word if the line forwards and none if not, and change nothing else
(R124, R127; a slot below SLOTS, R80). That the one event comes before the return and the send never blocks, so that an
Update that forwards completes, is the spec's own decision D23 (log 16). -/
def Obligations.RegisterUpdateReturnsCurrentAndStages : Prop :=
  ∀ (r : Nat) (word : Word) (fwd : Option Fwd) (s : State) (c : RegCell), s.regs[r]? = some c →
    slotOk s.slots fwd = true →
    exec (.regHold r (some (.word word)) fwd) s = .next { s with
      regs := s.regs.set r ⟨c.cur, c.cur⟩
      events := (fwd.toList.map fun f => ⟨r, f.chan, f.slot, c.cur⟩) ++ s.events
      outs := .word c.cur :: s.outs } ∧
    exec (.regLoad r (some (.word word)) fwd) s = .next { s with
      regs := s.regs.set r ⟨c.cur, word⟩
      events := (fwd.toList.map fun f => ⟨r, f.chan, f.slot, c.cur⟩) ++ s.events
      outs := .word c.cur :: s.outs }

/-- R129, the laws of the Register, as sequences of operations from any state: (a) persistence, (b) a LOAD returns the
old word, (c) a HOLD and any number of Ticks and HOLDs after it leave the word, (d) last write wins, (e) two registers
exchanged in one cycle. Law (a) is the source's, the others the spec marks as derived. -/
def Obligations.RegisterLawsHold : Prop :=
  (∀ (r : Nat) (s : State) (c : RegCell) (w w' u : Word) (more : List Instr), s.regs[r]? = some c →
    (∀ i ∈ more, i = .regTick r ∨ ∃ v, i = regRow false r v none) →
    outOf (execAll [regRow true r w none, .regTick r, regRow false r u none] s) = some (.word w) ∧
    outOf (exec (regRow true r w none) s) = some (.word c.cur) ∧
    (∃ t, execAll (regRow false r u none :: more) s = .next t ∧
      (t.regs[r]?).map RegCell.cur = some c.cur) ∧
    (∃ t, execAll [regRow true r w none, regRow true r w' none, .regTick r] s = .next t ∧
      (t.regs[r]?).map RegCell.cur = some w') ∧
    (∃ t, execAll [regRow true r w none, regRow false r u none, .regTick r] s = .next t ∧
      (t.regs[r]?).map RegCell.cur = some c.cur)) ∧
  (∀ (r q : Nat) (s : State) (c d : RegCell) (u : Word), s.regs[r]? = some c → s.regs[q]? = some d → r ≠ q →
    ∃ t, execAll [regRow false r u none, regRow true q c.cur none, regRow true r d.cur none, .regTick r, .regTick q] s
        = .next t ∧
      t.outs.take 5 = [.nothing, .nothing, .word c.cur, .word d.cur, .word c.cur] ∧
      (t.regs[r]?).map RegCell.cur = some d.cur ∧ (t.regs[q]?).map RegCell.cur = some c.cur)

/-- R242: whatever Updates of a Register (or Bit) fall in a cycle, with whatever other operations around them, the last
alone decides what the edge commits, be the edge the element's own Tick or TICK; so a HOLD after the LOAD of the same
cycle cancels it and a LOAD after a HOLD does not; that last Update, like any other, returns the pre-edge value. -/
def Obligations.LastWriteOfACycleWins : Prop :=
  (∀ (r : Nat) (c : RegCell) (last : Bool) (v : Word) (fwd : Option Fwd) (before after : List Instr)
      (s s1 s2 s3 : State),
    s.regs[r]? = some c →
    before.all (fun i => !ticksReg r i) = true → execAll before s = .next s1 →
    exec (regRow last r v fwd) s1 = .next s2 →
    after.all (fun i => !ticksReg r i && !updatesReg r i) = true → execAll after s2 = .next s3 →
    s2.outs.head? = some (.word c.cur) ∧
    (∃ t, exec (.regTick r) s3 = .next t ∧
      (t.regs[r]?).map RegCell.cur = some (if last then v else c.cur)) ∧
    (∃ t, runLine .tick s3 = .next t ∧ (t.regs[r]?).map RegCell.cur = some (if last then v else c.cur))) ∧
  (∀ (b : Nat) (c : BitCell) (last v : Bool) (before after : List Instr) (s s1 s2 s3 : State),
    s.bits[b]? = some c →
    before.all (fun i => !ticksBit b i) = true → execAll before s = .next s1 →
    exec (bitRow last b v) s1 = .next s2 →
    after.all (fun i => !ticksBit b i && !updatesBit b i) = true → execAll after s2 = .next s3 →
    s2.outs.head? = some (.bit c.cur) ∧
    (∃ t, exec (.bitTick b) s3 = .next t ∧
      (t.bits[b]?).map BitCell.cur = some (if last then v else c.cur)) ∧
    (∃ t, runLine .tick s3 = .next t ∧ (t.bits[b]?).map BitCell.cur = some (if last then v else c.cur)))

/-- R126: in whatever order the sixteen lanes reply, the word is the same; for a Register.Update it is the committed
word. -/
def Obligations.LaneOrderDoesNotMatter : Prop :=
  ∀ (c : RegCell) (word : Word) (load : Bool) (f : Nat → Bool) (replies : List (Nat × Bool)),
    (replies.Perm (laneList f) → collect replies = collect (laneList f)) ∧
    (replies.Perm (laneList fun i => ((c.lane i).update (word.getLsbD i) load).2) → collect replies = .ok c.cur)

/-- Register.Update is its sixteen Bits' Updates and Register.Tick its sixteen Bits' Ticks, lane by lane
(10_state.md R25, R124, R128). -/
def Obligations.RegisterIsSixteenBits : Prop :=
  ∀ (c : RegCell) (word : Word) (load : Bool) (i : Nat), i < 16 →
    (∃ d out, c.update word load = .ok (d, out) ∧ d.lane i = ((c.lane i).update (word.getLsbD i) load).1 ∧
      out.getLsbD i = ((c.lane i).update (word.getLsbD i) load).2) ∧
    c.tick.lane i = (c.lane i).tick

/-- Only a Tick writes a committed value, and no Tick writes a staged one (10_state.md R24). -/
def Obligations.OnlyTicksCommit : Prop :=
  ∀ (i : Instr) (s t : State), exec i s = .next t →
    (isTick i = false → t.committed = s.committed) ∧ (isTick i = true → t.staged = s.staged)

/-- An Update repeated with the same inputs stages and returns the same (20_memory.md R57). -/
def Obligations.RepeatedUpdateIsIdempotent : Prop :=
  ∀ (i : Instr) (s t : State), exec i s = .next t → isTick i = false →
    ∃ u, exec i t = .next u ∧ u.regs = t.regs ∧ u.bits = t.bits ∧ u.alus = t.alus ∧ u.outs.head? = t.outs.head?

/-- The global edge: TICK completes, and it is every Register and every free-standing Bit ticked exactly once, in any
order (30_encoding.md R81, 70_reset_and_hazards.md R239; that the order is free the spec marks as derived). That the
edge is one step is the spec's own decision D24 (R240, log 17). -/
def Obligations.GlobalEdgeIsEveryTickInAnyOrder : Prop :=
  ∀ (s : State) (ticks : List Instr),
    ticks.Perm ((List.range s.regs.length).map Instr.regTick ++ (List.range s.bits.length).map Instr.bitTick) →
    ∃ t u, runLine .tick s = .next t ∧ execAll ticks s = .next u ∧
      t.regs = u.regs ∧ t.bits = u.bits ∧ t.alus = u.alus ∧ t.events = u.events ∧ t.todo = u.todo ∧
      t.slots = u.slots

/-- Within a phase, whatever Updates fall in it, every read of every Register and Bit returns the word the phase opened
with: no same-edge forwarding (20_memory.md R60 (a), (b)). -/
def Obligations.ReadsOfAPhaseAreItsSnapshot : Prop :=
  ∀ (is : List Instr) (s t : State), is.all (fun i => !isTick i) = true → execAll is s = .next t →
    t.committed = s.committed ∧
    (∀ (r : Nat) (word : Word) (load : Bool) (c : RegCell), s.regs[r]? = some c →
      outOf (exec (regRow load r word none) t) = some (.word c.cur)) ∧
    (∀ (b : Nat) (input : Bool) (c : BitCell), s.bits[b]? = some c →
      outOf (exec (.bitHold b (some (.bit input))) t) = some (.bit c.cur) ∧
      outOf (exec (.bitLoad b (some (.bit input))) t) = some (.bit c.cur))

/-- Write-to-read latency is one edge: a word staged by REG.LOAD, with no later Update of that Register in its cycle, is
returned by no Update of that cycle unless it was there before, and by every Update of the next one
(70_reset_and_hazards.md R244). -/
def Obligations.StagedWordIsReadAfterTheEdge : Prop :=
  ∀ (r : Nat) (c : RegCell) (w word : Word) (load : Bool) (fwd : Option Fwd) (now next : List Instr)
    (s s1 s2 s3 s4 : State),
    s.regs[r]? = some c → exec (.regLoad r (some (.word w)) fwd) s = .next s1 →
    now.all (fun i => !isTick i && !updatesReg r i) = true → execAll now s1 = .next s2 →
    runLine .tick s2 = .next s3 →
    next.all (fun i => !isTick i) = true → execAll next s3 = .next s4 →
    outOf (exec (regRow load r word none) s2) = some (.word c.cur) ∧
    outOf (exec (regRow load r word none) s4) = some (.word w)

/-! ### The ALU -/

/-- Canonical rows of the opcode table, R161 to R163: the three constants (44_alu_operations.md). -/
def Obligations.ConstantRowsComputeTheirConstants : Prop :=
  Computes .aluZero true false true false true false (fun _ _ => 0#16) ∧
  Computes .aluOne true true true true true true (fun _ _ => 1#16) ∧
  Computes .aluNeg1 true true true false true false (fun _ _ => -1#16)

/-- Canonical rows of the opcode table, R164 to R167: x, y and their complements (44_alu_operations.md). -/
def Obligations.PassAndComplementRowsCompute : Prop :=
  Computes .aluX false false true true false false (fun x _ => x) ∧
  Computes .aluY true true false false false false (fun _ y => y) ∧
  Computes .aluNotx false false true true false true (fun x _ => ~~~x) ∧
  Computes .aluNoty true true false false false true (fun _ y => ~~~y)

/-- Canonical rows of the opcode table, R168, R169: two's-complement negation (44_alu_operations.md). -/
def Obligations.NegationRowsNegate : Prop :=
  Computes .aluNegx false false true true true true (fun x _ => -x) ∧
  Computes .aluNegy true true false false true true (fun _ y => -y)

/-- Canonical rows of the opcode table, R170 to R173 (44_alu_operations.md). -/
def Obligations.IncrementAndDecrementRowsCompute : Prop :=
  Computes .aluIncx false true true true true true (fun x _ => x + 1#16) ∧
  Computes .aluIncy true true false true true true (fun _ y => y + 1#16) ∧
  Computes .aluDecx false false true true true false (fun x _ => x - 1#16) ∧
  Computes .aluDecy true true false false true false (fun _ y => y - 1#16)

/-- Canonical rows of the opcode table, R174 to R176 (44_alu_operations.md). -/
def Obligations.SumAndDifferenceRowsCompute : Prop :=
  Computes .aluAdd false false false false true false (fun x y => x + y) ∧
  Computes .aluSubxy false true false false true true (fun x y => x - y) ∧
  Computes .aluSubyx false false false true true true (fun x y => y - x)

/-- Canonical rows of the opcode table, R177, R178 (44_alu_operations.md). -/
def Obligations.AndAndOrRowsCompute : Prop :=
  Computes .aluAndxy false false false false false false (fun x y => x &&& y) ∧
  Computes .aluOrxy false true false true false true (fun x y => x ||| y)

/-- The 32 control words that compute a canonical function under a further encoding (44_alu_operations.md R179). That
such a word is legal is the spec's own decision D21 (log 24), and what it computes the spec marks as derived from the
stages. -/
def Obligations.AliasWordsCompute : Prop :=
  Computes .aluC001000 false false true false false false (fun _ _ => 0#16) ∧
  Computes .aluC001001 false false true false false true (fun _ _ => -1#16) ∧
  Computes .aluC001010 false false true false true false (fun x _ => x) ∧
  Computes .aluC001011 false false true false true true (fun x _ => ~~~x) ∧
  Computes .aluC011000 false true true false false false (fun _ _ => 0#16) ∧
  Computes .aluC011001 false true true false false true (fun _ _ => -1#16) ∧
  Computes .aluC011010 false true true false true false (fun x _ => ~~~x) ∧
  Computes .aluC011011 false true true false true true (fun x _ => x) ∧
  Computes .aluC011100 false true true true false false (fun x _ => ~~~x) ∧
  Computes .aluC011101 false true true true false true (fun x _ => x) ∧
  Computes .aluC100000 true false false false false false (fun _ _ => 0#16) ∧
  Computes .aluC100001 true false false false false true (fun _ _ => -1#16) ∧
  Computes .aluC100010 true false false false true false (fun _ y => y) ∧
  Computes .aluC100011 true false false false true true (fun _ y => ~~~y) ∧
  Computes .aluC100100 true false false true false false (fun _ _ => 0#16) ∧
  Computes .aluC100101 true false false true false true (fun _ _ => -1#16) ∧
  Computes .aluC100110 true false false true true false (fun _ y => ~~~y) ∧
  Computes .aluC100111 true false false true true true (fun _ y => y) ∧
  Computes .aluC101000 true false true false false false (fun _ _ => 0#16) ∧
  Computes .aluC101001 true false true false false true (fun _ _ => -1#16) ∧
  Computes .aluC101011 true false true false true true (fun _ _ => -1#16) ∧
  Computes .aluC101100 true false true true false false (fun _ _ => 0#16) ∧
  Computes .aluC101101 true false true true false true (fun _ _ => -1#16) ∧
  Computes .aluC101110 true false true true true false (fun _ _ => -1#16) ∧
  Computes .aluC101111 true false true true true true (fun _ _ => 0#16) ∧
  Computes .aluC110100 true true false true false false (fun _ y => ~~~y) ∧
  Computes .aluC110101 true true false true false true (fun _ y => y) ∧
  Computes .aluC111000 true true true false false false (fun _ _ => 0#16) ∧
  Computes .aluC111001 true true true false false true (fun _ _ => -1#16) ∧
  Computes .aluC111011 true true true false true true (fun _ _ => 0#16) ∧
  Computes .aluC111100 true true true true false false (fun _ _ => -1#16) ∧
  Computes .aluC111101 true true true true false true (fun _ _ => 0#16)

/-- The 14 control words with functions of their own (44_alu_operations.md R179). That such a word is
legal is the spec's own decision D21 (log 24), and what it computes the spec marks as derived from the stages. -/
def Obligations.FurtherWordsCompute : Prop :=
  Computes .aluC000001 false false false false false true (fun x y => ~~~(x &&& y)) ∧
  Computes .aluC000011 false false false false true true (fun x y => -x - y - 1#16) ∧
  Computes .aluC000100 false false false true false false (fun x y => x &&& ~~~y) ∧
  Computes .aluC000101 false false false true false true (fun x y => ~~~x ||| y) ∧
  Computes .aluC000110 false false false true true false (fun x y => x - y - 1#16) ∧
  Computes .aluC010000 false true false false false false (fun x y => ~~~x &&& y) ∧
  Computes .aluC010001 false true false false false true (fun x y => x ||| ~~~y) ∧
  Computes .aluC010010 false true false false true false (fun x y => y - x - 1#16) ∧
  Computes .aluC010100 false true false true false false (fun x y => ~~~(x ||| y)) ∧
  Computes .aluC010110 false true false true true false (fun x y => -x - y - 2#16) ∧
  Computes .aluC010111 false true false true true true (fun x y => x + y + 1#16) ∧
  Computes .aluC011110 false true true true true false (fun x _ => -x - 2#16) ∧
  Computes .aluC110110 true true false true true false (fun _ y => -y - 2#16) ∧
  Computes .aluC111110 true true true true true false (fun _ _ => -2#16)

/-- ALU.Update (43_alu_pipeline.md R141) with any option list: the ports named take their new Signals and the others
keep theirs (kept latches are the spec's own decision D7, log 20); if the eight latched Signals are valid the Update
completes, the five stages compute its outputs, and nothing but that ALU's latches and the outputs changes; otherwise
the first failing port decides the fault (the order is the spec's own decision D13, log 11). With all eight ports
named, by whatever Signals, the latches' earlier content is irrelevant. -/
def Obligations.AluUpdateRunsTheFiveStages : Prop :=
  ∀ (a : Nat) (o : AluOpts) (s : State) (l : Latches), s.alus[a]? = some l →
    (∀ p : AluIn, l.drive o = p.latches →
      let x1 := if p.zx then 0#16 else p.x
      let y1 := if p.zy then 0#16 else p.y
      let x2 := if p.nx then ~~~x1 else x1
      let y2 := if p.ny then ~~~y1 else y1
      let raw := if p.f then x2 + y2 else x2 &&& y2
      let out := if p.no then ~~~raw else raw
      runLine (optsLine a o) s = .next { s with
        alus := s.alus.set a p.latches
        outs := .alu out (decide (out = 0#16)) (out.getLsbD 15) :: s.outs }) ∧
    (∀ f, runLine (optsLine a o) s = .fault f ↔ firstFault (aluPorts (l.drive o)) = some f) ∧
    (∀ (x y zx nx zy ny f no : Sig) (l' : Latches),
      o = ⟨some x, some y, some zx, some nx, some zy, some ny, some f, some no⟩ →
      l.drive o = ⟨x, y, zx, nx, zy, ny, f, no⟩ ∧ l'.drive o = l.drive o)

/-- R150 (its three pairs of flags the spec marks as derived): for every Update that does not raise, under every
control word: zr exactly when the output is zero, ng its bit 15, never both; equal latched inputs give equal outputs,
on whatever ALU, Registers and Bits. -/
def Obligations.FlagsFollowTheOutput : Prop :=
  ∀ (c : Ctl) (a a' : Nat) (x y x' y' : Option Sig) (s s' t t' : State) (l l' : Latches),
    exec (aluOfCtl c a x y) s = .next t → s.alus[a]? = some l →
    (∃ (out : Word) (zr ng : Bool), t.outs = .alu out zr ng :: s.outs ∧
      (zr = true ↔ out = 0x0000#16) ∧ (ng = true ↔ out.getLsbD 15 = true) ∧ (zr = true → ng = false) ∧
      ((zr, ng) = (true, false) ↔ out = 0#16) ∧ ((zr, ng) = (false, true) ↔ out.toInt < 0) ∧
      ((zr, ng) = (false, false) ↔ 0 < out.toInt)) ∧
    (s'.alus[a']? = some l' → l.drive (rowOpts c x y) = l'.drive (rowOpts c x' y') →
      exec (aluOfCtl c a' x' y') s' = .next t' → t.outs.head? = t'.outs.head?)

/-- R146: the zero flag is NOT of the OR of OR8WAY over bits 0 to 7 and OR8WAY over bits 8 to 15 (the joining gates are
the spec's own decision D18), and is 1 exactly when all sixteen bits are 0. -/
def Obligations.ZeroFlagReadsTheOutputBits : Prop :=
  ∀ out : Word,
    (∃ lo hi : Bool,
      (∀ s, outOf (exec (.or8way (some (.bit (out.getLsbD 0))) (some (.bit (out.getLsbD 1)))
        (some (.bit (out.getLsbD 2))) (some (.bit (out.getLsbD 3))) (some (.bit (out.getLsbD 4)))
        (some (.bit (out.getLsbD 5))) (some (.bit (out.getLsbD 6))) (some (.bit (out.getLsbD 7)))) s) =
          some (.bit lo)) ∧
      (∀ s, outOf (exec (.or8way (some (.bit (out.getLsbD 8))) (some (.bit (out.getLsbD 9)))
        (some (.bit (out.getLsbD 10))) (some (.bit (out.getLsbD 11))) (some (.bit (out.getLsbD 12)))
        (some (.bit (out.getLsbD 13))) (some (.bit (out.getLsbD 14))) (some (.bit (out.getLsbD 15)))) s) =
          some (.bit hi)) ∧
      flagZr out = not1 (or1 lo hi)) ∧
    (flagZr out = true ↔ ∀ i, i < 16 → out.getLsbD i = false)

/-- R147, of every ALU.Update that completes: ng is bit 15 of the value after stage 4, 1 exactly when the signed value is
negative, that is when the unsigned value is at least 0x8000. -/
def Obligations.NegativeFlagIsTheSignBit : Prop :=
  ∀ (a : Nat) (o : AluOpts) (s t : State) (l : Latches) (p : AluIn),
    s.alus[a]? = some l → l.drive o = p.latches → runLine (optsLine a o) s = .next t →
    ∃ zr ng : Bool, t.outs.head? = some (.alu p.out zr ng) ∧ ng = p.out.getLsbD 15 ∧
      (ng = true ↔ p.out.toInt < 0) ∧ (ng = true ↔ 0x8000 ≤ p.out.toNat)

/-- R151, the closed form (which the spec marks as derived): one of four shapes over the stage-2 values, each of which
is one of four. -/
def Obligations.OutputHasTheClosedForm : Prop :=
  ∀ p : AluIn,
    (p.x2 = p.x ∨ p.x2 = ~~~p.x ∨ p.x2 = 0#16 ∨ p.x2 = -1#16) ∧
    (p.y2 = p.y ∨ p.y2 = ~~~p.y ∨ p.y2 = 0#16 ∨ p.y2 = -1#16) ∧
    (p.f = false → p.no = false → p.out = p.x2 &&& p.y2) ∧
    (p.f = false → p.no = true → p.out = ~~~(p.x2 &&& p.y2) ∧ p.out = ~~~p.x2 ||| ~~~p.y2) ∧
    (p.f = true → p.no = false → p.out = p.x2 + p.y2) ∧
    (p.f = true → p.no = true → p.out = ~~~(p.x2 + p.y2) ∧ p.out = -p.x2 - p.y2 - 1#16) ∧
    ∀ w : Word, ~~~w = -w - 1#16

/-- R142 to R145, stages 1 to 4 of ALU.Update, each a multiplexer over the gates' results: zeroing before
complementing, the four values of each conditioned operand by its two flags, both function gates evaluated and one
picked, the output complemented last. A zeroed operand is consumed all the same: Invalid on it raises under every
control word. The multiplexers of stages 2 to 4 are the spec's own decision D17 (log 22), the zeroed operand consumed
its decision D12 (log 24). Choices too are that an Invalid x is reported whatever y carries, the port order of R149
(decision D13, log 11), and that an x left out is the one the latch keeps (decision D7, log 20). -/
def Obligations.AluStagesConditionSelectAndNegate : Prop :=
  (∀ p : AluIn,
    (p.x1 = mux16 p.x zero16 p.zx ∧ p.y1 = mux16 p.y zero16 p.zy) ∧
    (p.zx = true → p.x1 = 0x0000#16) ∧ (p.zx = false → p.x1 = p.x) ∧
    (p.zy = true → p.y1 = 0x0000#16) ∧ (p.zy = false → p.y1 = p.y) ∧
    (p.x2 = mux16 p.x1 (not16 p.x1) p.nx ∧ p.y2 = mux16 p.y1 (not16 p.y1) p.ny) ∧
    (p.zx = false → p.nx = false → p.x2 = p.x) ∧ (p.zx = false → p.nx = true → p.x2 = ~~~p.x) ∧
    (p.zx = true → p.nx = false → p.x2 = 0x0000#16) ∧ (p.zx = true → p.nx = true → p.x2 = 0xFFFF#16) ∧
    (p.zy = false → p.ny = false → p.y2 = p.y) ∧ (p.zy = false → p.ny = true → p.y2 = ~~~p.y) ∧
    (p.zy = true → p.ny = false → p.y2 = 0x0000#16) ∧ (p.zy = true → p.ny = true → p.y2 = 0xFFFF#16) ∧
    p.raw = mux16 (and16 p.x2 p.y2) (add16 p.x2 p.y2) p.f ∧
    (p.f = true → p.raw = p.x2 + p.y2) ∧ (p.f = false → p.raw = p.x2 &&& p.y2) ∧
    p.out = mux16 p.raw (not16 p.raw) p.no ∧
    (p.no = true → p.out = ~~~p.raw) ∧ (p.no = false → p.out = p.raw)) ∧
  (∀ (c : Ctl) (a : Nat) (y : Option Sig) (s : State) (l : Latches), s.alus[a]? = some l →
    exec (aluOfCtl c a (some .invalid) y) s = .fault (.uninitializedSignal .x)) ∧
  (∀ (c : Ctl) (a : Nat) (x : Option Sig) (xw : Word) (s : State) (l : Latches), s.alus[a]? = some l →
    x.getD l.x = .word xw → exec (aluOfCtl c a x (some .invalid)) s = .fault (.uninitializedSignal .y))

/-- R180 (which the spec marks as derived): the constant 0 has eleven control words, the constant -1 eleven, x, its
complement, y and its complement four each, and every other function one: two words compute the same function exactly
when they are the same word or stand in one row of this table. An alias returns the same outputs and raises in the
same cases, on every state. -/
def Obligations.AliasesCannotBeToldApart : Prop :=
  (∀ row ∈ aliasTable, ∀ c ∈ row.1, ∀ x y, aluFn c x y = row.2 x y) ∧
  aliasTable.map (fun row => row.1.length) = [11, 11, 4, 4, 4, 4] ∧
  (∀ c d : Ctl, (∀ x y, aluFn c x y = aluFn d x y) ↔ c = d ∨ ∃ row ∈ aliasTable, c ∈ row.1 ∧ d ∈ row.1) ∧
  (∀ row ∈ aliasTable, ∀ c ∈ row.1, ∀ d ∈ row.1, ∀ (a : Nat) (x y : Option Sig) (s : State),
    outOf (exec (aluOfCtl c a x y) s) = outOf (exec (aluOfCtl d a x y) s) ∧
    faultOf (exec (aluOfCtl c a x y) s) = faultOf (exec (aluOfCtl d a x y) s))

/-- R181 (which the spec marks as derived): which flags each canonical operation can produce: ZERO, ONE and NEG1
always theirs; the other fifteen each of the three pairs for suitable operands; no operation ever (1, 1). -/
def Obligations.CanonicalRowsProduceTheirFlags : Prop :=
  (∀ x y, (flagZr (aluFn 0x2A#6 x y), flagNg (aluFn 0x2A#6 x y)) = (true, false)) ∧
  (∀ x y, (flagZr (aluFn 0x3F#6 x y), flagNg (aluFn 0x3F#6 x y)) = (false, false)) ∧
  (∀ x y, (flagZr (aluFn 0x3A#6 x y), flagNg (aluFn 0x3A#6 x y)) = (false, true)) ∧
  (∀ c ∈ [0x0C#6, 0x30#6, 0x0D#6, 0x31#6, 0x0F#6, 0x33#6, 0x1F#6, 0x37#6, 0x0E#6, 0x32#6, 0x02#6, 0x13#6, 0x07#6,
      0x00#6, 0x15#6],
    ∀ flags ∈ [(true, false), (false, true), (false, false)],
      ∃ x y, (flagZr (aluFn c x y), flagNg (aluFn c x y)) = flags) ∧
  (∀ (c : Ctl) (a : Nat) (x y : Option Sig) (s : State) (out : Word),
    outOf (exec (aluOfCtl c a x y) s) ≠ some (.alu out true true))

/-! ### The whole machine -/

/-- Every step keeps the latch invariant: each ALU has seen no Update or holds eight Signals of the right widths
(10_state.md R35). -/
def Obligations.StepKeepsLatchesSettled : Prop :=
  ∀ s t : State, s.inv = true → step s = .next t → t.inv = true

/-- The latch invariant holds after construction of any circuit, and after reset. -/
def Obligations.ConstructionSettlesLatches : Prop :=
  (∀ c : Circuit, (State.construct c).inv = true) ∧ State.reset.inv = true

/-- A latch that has a valid Signal keeps a valid one: no step leaves Invalid in an ALU that has completed an Update
(10_state.md R35). -/
def Obligations.ValidLatchesStayValid : Prop :=
  ∀ (s t : State) (a : Nat) (l : Latches), step s = .next t → s.alus[a]? = some l → l.valid = true →
    ∃ l', t.alus[a]? = some l' ∧ l'.valid = true

/-- No step creates or destroys an element or changes SLOTS, takes back an output or an event, or adds to the trace
(10_state.md R37, 70_reset_and_hazards.md R247). -/
def Obligations.StepKeepsTheCircuit : Prop :=
  ∀ s t : State, step s = .next t →
    t.circuit = s.circuit ∧
    t.outs.length = s.outs.length + 1 ∧ s.outs <:+ t.outs ∧ s.events <:+ t.events ∧
    t.todo <:+ s.todo ∧ t.todo.length < s.todo.length

/-- Gates and the ALU touch no Register and no Bit; Bits, Registers and gates touch no latch; every operation leaves the
trace alone (10_state.md R22, R26, 20_memory.md R59). -/
def Obligations.ElementsDoNotTouchOneAnother : Prop :=
  ∀ (i : Instr) (s t : State), exec i s = .next t → t.todo = s.todo ∧ t.slots = s.slots ∧
    ((gatePorts i).isSome = true → t = { s with outs := t.outs }) ∧
    (∀ c a x y, i = aluOfCtl c a x y →
      t = { s with alus := t.alus, outs := t.outs } ∧ ∀ k, k ≠ a → t.alus[k]? = s.alus[k]?) ∧
    (∀ r, updatesReg r i = true ∨ i = .regTick r →
      t.bits = s.bits ∧ t.alus = s.alus ∧ ∀ k, k ≠ r → t.regs[k]? = s.regs[k]?) ∧
    (∀ b, updatesBit b i = true ∨ i = .bitTick b →
      t = { s with bits := t.bits, outs := t.outs } ∧ ∀ k, k ≠ b → t.bits[k]? = s.bits[k]?)

/-- After construction of any circuit (its NREG, NALU, number of Bits and SLOTS are arguments, 00_scope.md R8) every
Register and Bit holds RESET_CUR both committed and staged, every latch is Invalid, no trace is loaded and nothing has
been returned (10_state.md R34). What RESET_CUR is stays open (D4, log 3); that pend equals cur is the spec's own
decision D5 (log 4), Invalid latches its decision D7 (log 20). -/
def Obligations.ConstructionLeavesResetValues : Prop :=
  ∀ c : Circuit,
    (∀ r, r < c.nreg → (State.construct c).regs[r]? = some ⟨Config.resetCur r, Config.resetCur r⟩) ∧
    (∀ b, b < c.nbit → (State.construct c).bits[b]? = some ⟨Config.resetBit b, Config.resetBit b⟩) ∧
    (∀ a, a < c.nalu → (State.construct c).alus[a]? = some Latches.fresh) ∧
    (State.construct c).circuit = c ∧ (State.construct c).todo = [] ∧
    (State.construct c).outs = [] ∧ (State.construct c).events = []

/-- R234 (the spec's own decisions D5 and D6, log 4): a Tick before any Update changes nothing, and an Update before any
Tick returns RESET_CUR (which stays open, log 3). -/
def Obligations.TickBeforeUpdateChangesNothing : Prop :=
  ∀ (c : Circuit) (r b : Nat) (word : Word) (input load : Bool), r < c.nreg → b < c.nbit →
    let s := State.construct c
    exec (.regTick r) s = .next { s with outs := [.nothing] } ∧
    exec (.bitTick b) s = .next { s with outs := [.nothing] } ∧
    runLine .tick s = .next { s with outs := [.nothing] } ∧
    outOf (exec (regRow load r word none) s) = some (.word (Config.resetCur r)) ∧
    outOf (exec (.bitHold b (some (.bit input))) s) = some (.bit (Config.resetBit b)) ∧
    outOf (exec (.bitLoad b (some (.bit input))) s) = some (.bit (Config.resetBit b))

/-! ### Encoding, trace and step -/

/-- A line whose elements and slot the bytes can name reads back from its bytes, whatever follows them (the model's
byte form, log 5). -/
def Obligations.DecodeOfEncodedLine : Prop :=
  ∀ (l : Line) (rest : List Byte), l.wf .encodable = true → decodeLine (encodeLine l ++ rest) = .ok (l, rest)

/-- An operation whose element and slot the bytes can name reads back from its bytes: the line that writes it out,
which is that operation and no other (the model's byte form, log 5). -/
def Obligations.DecodeOfEncodedOperation : Prop :=
  ∀ (i : Instr) (rest : List Byte), i.wf .encodable = true →
    decodeLine (encode i ++ rest) = .ok (i.toLine, rest) ∧ i.toLine.static = some i

/-- Whatever the decoder accepts is a well-formed line, and it consumes bytes. -/
def Obligations.DecodedLinesAreWellFormed : Prop :=
  ∀ (bytes rest : List Byte) (l : Line), decodeLine bytes = .ok (l, rest) →
    l.wf .encodable = true ∧ rest <:+ bytes ∧ rest.length < bytes.length

/-- All 64 control words are operations and no two are the same: mask 0x3F, every bit selects, none is refused (that
all are legal and the numbering of the bits are the spec's own decisions D21 and D8, log 24). That seventeen of the
eighteen named words are the canonical ones is from general knowledge (D20, log 19). That a bare table word is read on
ALU 0 with x and y 0x0000 is the model's choice (log 5). -/
def Obligations.ControlWordsSelectTheirRows : Prop :=
  (∀ w, w < 64 → decodeTableWord 8 w = some (aluOfCtl (BitVec.ofNat 6 w) 0 (some (.word 0#16)) (some (.word 0#16)))) ∧
  (∀ (c d : Ctl) (a b : Nat) (x y x' y' : Option Sig), aluOfCtl c a x y = aluOfCtl d b x' y' → c = d) ∧
  (∀ (a : Nat) (x y : Option Sig),
    aluOfCtl 0x2A#6 a x y = .aluZero a x y ∧ aluOfCtl 0x3F#6 a x y = .aluOne a x y ∧
    aluOfCtl 0x3A#6 a x y = .aluNeg1 a x y ∧ aluOfCtl 0x0C#6 a x y = .aluX a x y ∧
    aluOfCtl 0x30#6 a x y = .aluY a x y ∧ aluOfCtl 0x0D#6 a x y = .aluNotx a x y ∧
    aluOfCtl 0x31#6 a x y = .aluNoty a x y ∧ aluOfCtl 0x0F#6 a x y = .aluNegx a x y ∧
    aluOfCtl 0x33#6 a x y = .aluNegy a x y ∧ aluOfCtl 0x1F#6 a x y = .aluIncx a x y ∧
    aluOfCtl 0x37#6 a x y = .aluIncy a x y ∧ aluOfCtl 0x0E#6 a x y = .aluDecx a x y ∧
    aluOfCtl 0x32#6 a x y = .aluDecy a x y ∧ aluOfCtl 0x02#6 a x y = .aluAdd a x y ∧
    aluOfCtl 0x13#6 a x y = .aluSubxy a x y ∧ aluOfCtl 0x07#6 a x y = .aluSubyx a x y ∧
    aluOfCtl 0x00#6 a x y = .aluAndxy a x y ∧ aluOfCtl 0x15#6 a x y = .aluOrxy a x y)

/-- A few words written out from the spec's encodings are the operations they stand for: control bits in the places of
R71 and R72. -/
def Obligations.WrittenOutWordsDecode : Prop :=
  decodeTableWord 8 0b101010 = some (.aluZero 0 (some (.word 0#16)) (some (.word 0#16))) ∧
  decodeTableWord 8 0b010011 = some (.aluSubxy 0 (some (.word 0#16)) (some (.word 0#16))) ∧
  decodeTableWord 8 0b000001 = some (.aluC000001 0 (some (.word 0#16)) (some (.word 0#16))) ∧
  decodeLine [0x43#8, 2#8, 0#8, 0#8, 0x34#8, 0x12#8, 0#8, 0#8, 0#8, 0#8] =
    .ok ((Instr.regLoad 2 (some (.word 0x1234#16)) none).toLine, []) ∧
  decodeLine [0x40#8, 1#8, 1#8, 1#8, 0#8, 0#8] = .ok ((Instr.bitHold 1 (some (.bit true))).toLine, [])

/-- A step runs the decoded operation: when the trace's next bytes read as the line of an operation, the step is that
operation at the state with the line taken off the trace; when they read as any line, it is that line. And a table
word placed by withFetchWord is run by the very next step as the operation decodeTableWord reads from it: that a trace
is placed in bytes, and that a bare table word is such a line, are the model's choices (logs 5 and 6). -/
def Obligations.StepRunsTheDecodedOperation : Prop :=
  (∀ (s : State) (i : Instr) (rest : List Byte), decodeLine s.todo = .ok (i.toLine, rest) →
    step s = exec i { s with todo := rest }) ∧
  (∀ (s : State) (l : Line) (rest : List Byte), decodeLine s.todo = .ok (l, rest) →
    step s = runLine l { s with todo := rest }) ∧
  (∀ (s : State) (nbits w : Nat) (i : Instr), decodeTableWord nbits w = some i →
    ∃ rest, step (s.withFetchWord nbits w) = exec i { s with todo := rest })

/-- The Signal on loadEnable, computed by an earlier line, selects HOLD or LOAD: the block's only data-dependent choice
(30_encoding.md R72, 42_storage.md R132). -/
def Obligations.ComputedLoadEnableSelects : Prop :=
  ∀ (s : State) (back : Nat) (port : OutPort) (o : Outputs) (v : Bool),
    s.outs[back]? = some o → o.port port = some (.bit v) →
    (∀ (r : Nat) (word : Option Sig) (fwd : Option Fwd),
      runLine (.regUpdate r (.ofSig word) (.src (.out back port)) fwd) s =
        exec (if v then .regLoad r word fwd else .regHold r word fwd) s) ∧
    (∀ (b : Nat) (input : Option Sig),
      runLine (.bitUpdate b (.ofSig input) (.src (.out back port))) s =
        exec (if v then .bitLoad b input else .bitHold b input) s)

/-- Wiring, on any port of any line: an argument may be replaced by the Signal it carries (an earlier line's output by
name and port, a bit of an earlier word, sixteen bits bundled into the word of those bits) and the line runs the same;
each line's outputs stand on the ports its element has (30_encoding.md, 20_memory.md). A bundle of Signals that, after
any number of bits, has an Invalid raises UninitializedSignal (decision D26, which speaks of Invalid only). The model's
own choices are that a vector lane raises InvalidWidth, that the error names the port the bundle is wired to and the
first bad lane decides (log 10, deduced), and that a bundle is made before the ports are checked, so that its error
comes even when an earlier port carries Invalid, which R206 alone would report first (log 11). -/
def Obligations.WiringSplitsAndBundles : Prop :=
  (∀ (s : State) (l : Line) (change : Port → Arg → Arg),
    (∀ p a, change p a = a ∨ ∃ g, ArgCarries s.outs a g ∧ change p a = .src (.sig g)) →
    runLine (rewire change l) s = runLine l s) ∧
  (∀ (w : Word) (b zr ng : Bool) (p : OutPort),
    (Outputs.alu w zr ng).port .out = some (.word w) ∧ (Outputs.alu w zr ng).port .zr = some (.bit zr) ∧
    (Outputs.alu w zr ng).port .ng = some (.bit ng) ∧ (Outputs.word w).port .out = some (.word w) ∧
    (Outputs.bit b).port .out = some (.bit b) ∧ Outputs.nothing.port p = none ∧
    (p ≠ .out → (Outputs.word w).port p = none ∧ (Outputs.bit b).port p = none)) ∧
  (∀ (s : State) (l : Line) (pre post : List (Port × Arg)) (p : Port) (good : List Bool) (bad : Sig) (rest : List Sig)
      (lanes : List Src),
    lineArgs l = pre ++ (p, .bundle lanes) :: post → (∀ arg ∈ pre, Wired s arg) →
    List.Forall₂ (SrcCarries s.outs) lanes (good.map Sig.bit ++ bad :: rest) →
    (bad = .invalid → runLine l s = .fault (.uninitializedSignal p)) ∧
    (∀ w, bad = .word w → runLine l s = .fault (.invalidWidth p)))

/-- What a trace can say that has no meaning is refused by name: the end of the trace (log 7), bytes that are no line
(log 8), on any port of any line an output that does not exist (log 9: no such line, a port that line does not have, a
bit of what is no word, in a bundle too), every operation on an element the circuit does not have, and forwarding to a
slot not below SLOTS (log 9). That these are found in that order, before any port is checked, is the model's choice
(log 11). And an operation that is refused names such an element or slot: none that is well formed in the circuit is
refused. -/
def Obligations.IllFormedTracesAreRefused : Prop :=
  (∀ s : State, s.todo = [] → step s = .refused .endOfTrace) ∧
  (∀ (s : State) (b : Byte) (bytes : List Byte) (e : DecodeError), s.todo = b :: bytes →
    decodeLine (b :: bytes) = .error e → step s = .refused (.illFormed e)) ∧
  (∀ (s : State) (l : Line) (pre post : List (Port × Arg)) (p : Port) (a : Arg),
    lineArgs l = pre ++ (p, a) :: post → (∀ arg ∈ pre, Wired s arg) → ArgMissing s.outs a →
    runLine l s = .refused .noSuchOutput) ∧
  (∀ (s : State) (l : Line), ElementMissing s l → (∀ arg ∈ lineArgs l, Wired s arg) →
    runLine l s = .refused .noSuchElement) ∧
  (∀ (s : State) (r : Nat) (word : Option Sig) (fwd : Option Fwd), s.regs.length ≤ r →
    exec (.regHold r word fwd) s = .refused .noSuchElement ∧
    exec (.regLoad r word fwd) s = .refused .noSuchElement ∧ exec (.regTick r) s = .refused .noSuchElement) ∧
  (∀ (s : State) (b : Nat) (input : Option Sig), s.bits.length ≤ b →
    exec (.bitHold b input) s = .refused .noSuchElement ∧
    exec (.bitLoad b input) s = .refused .noSuchElement ∧ exec (.bitTick b) s = .refused .noSuchElement) ∧
  (∀ (s : State) (c : Ctl) (a : Nat) (x y : Option Sig), s.alus.length ≤ a →
    exec (aluOfCtl c a x y) s = .refused .noSuchElement) ∧
  (∀ (s : State) (r : Nat) (word : Option Sig) (f : Fwd), r < s.regs.length → s.slots ≤ f.slot →
    exec (.regHold r word (some f)) s = .refused .noSuchSlot ∧
    exec (.regLoad r word (some f)) s = .refused .noSuchSlot) ∧
  (∀ (s : State) (r : Nat) (word load : Arg) (f : Fwd), r < s.regs.length → s.slots ≤ f.slot →
    Wired s (.word, word) → Wired s (.loadEnable, load) →
    runLine (.regUpdate r word load (some f)) s = .refused .noSuchSlot) ∧
  (∀ (s : State) (i : Instr) (why : Refusal), exec i s = .refused why →
    i.wf s.circuit = false ∧ (why = .noSuchElement ∨ why = .noSuchSlot))
end

