-- ==== Sys2Proof/Laws/State.lean ====
section
/-! SUPPORT. One lemma per field per update of the state. -/

namespace Sys2Proof.Machine

section emit
variable (s : State) (o : Outputs)
@[simp] theorem emit_regs : (s.emit o).regs = s.regs := rfl
@[simp] theorem emit_bits : (s.emit o).bits = s.bits := rfl
@[simp] theorem emit_alus : (s.emit o).alus = s.alus := rfl
@[simp] theorem emit_todo : (s.emit o).todo = s.todo := rfl
@[simp] theorem emit_slots : (s.emit o).slots = s.slots := rfl
@[simp] theorem emit_outs : (s.emit o).outs = o :: s.outs := rfl
@[simp] theorem emit_events : (s.emit o).events = s.events := rfl
end emit

section setReg
variable (s : State) (r : Nat) (c : RegCell)
@[simp] theorem setReg_regs : (s.setReg r c).regs = s.regs.set r c := rfl
@[simp] theorem setReg_bits : (s.setReg r c).bits = s.bits := rfl
@[simp] theorem setReg_alus : (s.setReg r c).alus = s.alus := rfl
@[simp] theorem setReg_todo : (s.setReg r c).todo = s.todo := rfl
@[simp] theorem setReg_slots : (s.setReg r c).slots = s.slots := rfl
@[simp] theorem setReg_outs : (s.setReg r c).outs = s.outs := rfl
@[simp] theorem setReg_events : (s.setReg r c).events = s.events := rfl
end setReg

section setBit
variable (s : State) (b : Nat) (c : BitCell)
@[simp] theorem setBit_regs : (s.setBit b c).regs = s.regs := rfl
@[simp] theorem setBit_bits : (s.setBit b c).bits = s.bits.set b c := rfl
@[simp] theorem setBit_alus : (s.setBit b c).alus = s.alus := rfl
@[simp] theorem setBit_todo : (s.setBit b c).todo = s.todo := rfl
@[simp] theorem setBit_slots : (s.setBit b c).slots = s.slots := rfl
@[simp] theorem setBit_outs : (s.setBit b c).outs = s.outs := rfl
@[simp] theorem setBit_events : (s.setBit b c).events = s.events := rfl
end setBit

section setAlu
variable (s : State) (a : Nat) (l : Latches)
@[simp] theorem setAlu_regs : (s.setAlu a l).regs = s.regs := rfl
@[simp] theorem setAlu_bits : (s.setAlu a l).bits = s.bits := rfl
@[simp] theorem setAlu_alus : (s.setAlu a l).alus = s.alus.set a l := rfl
@[simp] theorem setAlu_todo : (s.setAlu a l).todo = s.todo := rfl
@[simp] theorem setAlu_slots : (s.setAlu a l).slots = s.slots := rfl
@[simp] theorem setAlu_outs : (s.setAlu a l).outs = s.outs := rfl
@[simp] theorem setAlu_events : (s.setAlu a l).events = s.events := rfl
end setAlu

section forward
variable (s : State) (r : Nat) (fwd : Option Fwd) (w : Word)
@[simp] theorem forward_regs : (s.forward r fwd w).regs = s.regs := by cases fwd <;> rfl
@[simp] theorem forward_bits : (s.forward r fwd w).bits = s.bits := by cases fwd <;> rfl
@[simp] theorem forward_alus : (s.forward r fwd w).alus = s.alus := by cases fwd <;> rfl
@[simp] theorem forward_todo : (s.forward r fwd w).todo = s.todo := by cases fwd <;> rfl
@[simp] theorem forward_slots : (s.forward r fwd w).slots = s.slots := by cases fwd <;> rfl
@[simp] theorem forward_outs : (s.forward r fwd w).outs = s.outs := by cases fwd <;> rfl
@[simp] theorem forward_events_none : (s.forward r none w).events = s.events := rfl
@[simp] theorem forward_events_some (f : Fwd) :
    (s.forward r (some f) w).events = ⟨r, f.chan, f.slot, w⟩ :: s.events := rfl
end forward

section globalTick
variable (s : State)
@[simp] theorem globalTick_regs : s.globalTick.regs = s.regs.map RegCell.tick := rfl
@[simp] theorem globalTick_bits : s.globalTick.bits = s.bits.map BitCell.tick := rfl
@[simp] theorem globalTick_alus : s.globalTick.alus = s.alus := rfl
@[simp] theorem globalTick_todo : s.globalTick.todo = s.todo := rfl
@[simp] theorem globalTick_slots : s.globalTick.slots = s.slots := rfl
@[simp] theorem globalTick_outs : s.globalTick.outs = .nothing :: s.outs := rfl
@[simp] theorem globalTick_events : s.globalTick.events = s.events := rfl
end globalTick

end Sys2Proof.Machine
end

