-- ==== Sys2Proof/Laws/Words.lean ====
section
/-! SUPPORT. What the gates compute, in closed form, so that no later proof unfolds a gate tree. -/

namespace Sys2Proof.Machine

/-! ### Lanes and words -/

theorem getLsbD_foldl_join (replies : List (Nat × Bool)) (o : Word) (i : Nat) :
    (replies.foldl (fun o reply => if reply.2 then o ||| BitVec.twoPow 16 reply.1 else o) o).getLsbD i =
      (o.getLsbD i || decide (i < 16) && replies.any fun reply => reply.1 == i && reply.2) := by
  induction replies generalizing o with
  | nil => simp
  | cons reply rest ih =>
    obtain ⟨k, v⟩ := reply
    rw [List.foldl_cons, ih]
    cases v
    · simp
    · by_cases hk : k = i
      · subst hk
        by_cases hi : k < 16 <;> simp [BitVec.getLsbD_twoPow, hi]
      · have hki : (k == i) = false := beq_false_of_ne hk
        simp [BitVec.getLsbD_twoPow, hk, hki]

/-- Output bit `i` of the join is set exactly where some reply sets it. -/
theorem getLsbD_joinLanes (replies : List (Nat × Bool)) (i : Nat) :
    (joinLanes replies).getLsbD i = (decide (i < 16) && replies.any fun reply => reply.1 == i && reply.2) := by
  simp [joinLanes, getLsbD_foldl_join, zero16]

/-- Bundling: bit `i` is the value of lane `i`. -/
@[simp] theorem getLsbD_ofLanes (f : Nat → Bool) (i : Nat) : (ofLanes f).getLsbD i = (decide (i < 16) && f i) := by
  rw [ofLanes, getLsbD_joinLanes]
  by_cases hi : i < 16
  · simp only [hi, decide_true, Bool.true_and, laneList, List.any_map]
    apply Bool.eq_iff_iff.mpr
    simp only [List.any_eq_true, List.mem_range, Function.comp_apply, Bool.and_eq_true, beq_iff_eq]
    constructor
    · rintro ⟨k, -, rfl, h⟩
      exact h
    · exact fun h => ⟨i, hi, rfl, h⟩
  · simp [hi]

/-- The same, of a lane known to exist. -/
@[simp] theorem getElem_ofLanes (f : Nat → Bool) (i : Nat) (hi : i < 16) : (ofLanes f)[i] = f i := by
  rw [← BitVec.getLsbD_eq_getElem hi, getLsbD_ofLanes, decide_eq_true hi, Bool.true_and]

/-- Splitting a word and bundling it again gives it back. -/
@[simp] theorem ofLanes_getLsbD (w : Word) : (ofLanes fun i => w.getLsbD i) = w := by
  apply BitVec.eq_of_getLsbD_eq
  intro i hi
  rw [getLsbD_ofLanes, decide_eq_true hi, Bool.true_and]

/-- Lanes that agree below sixteen bundle to the same word. -/
theorem ofLanes_eq (f : Nat → Bool) (w : Word) (h : ∀ i, i < 16 → f i = w.getLsbD i) : ofLanes f = w := by
  apply BitVec.eq_of_getLsbD_eq
  intro i hi
  rw [getLsbD_ofLanes, decide_eq_true hi, Bool.true_and, h i hi]

/-! ### One-bit gates -/

@[simp] theorem mux1_false (a b : Bool) : mux1 a b false = a := by simp [mux1, or1, and1, not1]
@[simp] theorem mux1_true (a b : Bool) : mux1 a b true = b := by simp [mux1, or1, and1, not1]

/-- The full adder's sum is the parity. -/
theorem sumCell_eq (p q c : Bool) : sumCell p q c = (p ^^ (q ^^ c)) := by
  cases p <;> cases q <;> cases c <;> rfl

/-- The full adder's carry is the majority. -/
theorem carryCell_eq (p q c : Bool) : carryCell p q c = p.atLeastTwo q c := by
  cases p <;> cases q <;> cases c <;> rfl

/-! ### 16-bit gates -/

theorem not16_eq (a : Word) : not16 a = ~~~a := by
  apply ofLanes_eq
  intro i hi
  simp [not1, hi]

theorem and16_eq (a b : Word) : and16 a b = a &&& b := by
  apply ofLanes_eq
  intro i _
  simp [and1]

theorem mux16_eq (a b : Word) (sel : Bool) : mux16 a b sel = if sel then b else a := by
  cases sel <;> simp [mux16]

theorem carryInto_eq (a b : Word) (i : Nat) : carryInto a b i = BitVec.carry i a b false := by
  induction i with
  | zero => simp [carryInto]
  | succ n ih => rw [carryInto, ih, carryCell_eq, BitVec.carry_succ]

/-- The ripple adder adds modulo 65536. -/
theorem add16_eq (a b : Word) : add16 a b = a + b := by
  apply ofLanes_eq
  intro i hi
  rw [sumCell_eq, carryInto_eq, BitVec.getLsbD_add hi]

/-! ### Stages and flags -/

theorem AluIn.x2_eq (p : AluIn) :
    p.x2 = if p.nx then ~~~(if p.zx then 0#16 else p.x) else if p.zx then 0#16 else p.x := by
  simp only [AluIn.x2, AluIn.x1, mux16_eq, not16_eq, zero16]

theorem AluIn.y2_eq (p : AluIn) :
    p.y2 = if p.ny then ~~~(if p.zy then 0#16 else p.y) else if p.zy then 0#16 else p.y := by
  simp only [AluIn.y2, AluIn.y1, mux16_eq, not16_eq, zero16]

theorem AluIn.raw_eq (p : AluIn) : p.raw = if p.f then p.x2 + p.y2 else p.x2 &&& p.y2 := by
  simp only [AluIn.raw, mux16_eq, and16_eq, add16_eq]

theorem AluIn.out_eq (p : AluIn) : p.out = if p.no then ~~~p.raw else p.raw := by
  simp only [AluIn.out, mux16_eq, not16_eq]

/-- The zero flag says that `out` is zero. -/
theorem flagZr_eq (w : Word) : flagZr w = decide (w = 0#16) := by
  apply Bool.eq_iff_iff.mpr
  simp only [flagZr, not1, or1, or8, Bool.not_eq_true', Bool.or_eq_false_iff, decide_eq_true_eq]
  constructor
  · rintro ⟨⟨⟨⟨h0, h1⟩, h2, h3⟩, ⟨h4, h5⟩, h6, h7⟩, ⟨⟨h8, h9⟩, h10, h11⟩, ⟨h12, h13⟩, h14, h15⟩
    apply BitVec.eq_of_getLsbD_eq
    intro i hi
    rw [BitVec.getLsbD_zero]
    interval_cases i <;> assumption
  · rintro rfl
    simp

theorem flagNg_eq (w : Word) : flagNg w = w.msb := by
  simp [flagNg, BitVec.msb_eq_getLsbD_last]

end Sys2Proof.Machine
end

