-- ==== Sys2Proof/Laws/Ops.lean ====
section
/-! SUPPORT. One lemma per shared operation, saying once what it can do; later proofs cite these and do not unfold the
operations. -/

namespace Sys2Proof.Machine

/-! ### Checks -/

/-- A sequence of checks passes exactly when each of them passes. -/
theorem bind_eq_ok {ε α β : Type} (c : Except ε α) (k : α → Except ε β) (v : β) :
    (c >>= k) = .ok v ↔ ∃ u, c = .ok u ∧ k u = .ok v := by
  cases c <;> simp [bind, Except.bind]

@[simp] theorem need1_bit (p : Port) (b : Bool) : need1 p (some (.bit b)) = .ok b := rfl
@[simp] theorem need16_word (p : Port) (w : Word) : need16 p (some (.word w)) = .ok w := rfl

@[simp] theorem need1_eq_ok (p : Port) (s : Option Sig) (b : Bool) : need1 p s = .ok b ↔ s = some (.bit b) := by
  rcases s with _ | _ | _ | _ <;> simp [need1]

@[simp] theorem need16_eq_ok (p : Port) (s : Option Sig) (w : Word) : need16 p s = .ok w ↔ s = some (.word w) := by
  rcases s with _ | _ | _ | _ <;> simp [need16]

/-- A failed 1-bit check names its own port. -/
theorem need1_error (p : Port) (s : Option Sig) (f : Fault) (h : need1 p s = .error f) :
    f = .uninitializedSignal p ∨ f = .invalidWidth p := by
  rcases s with _ | _ | _ | _ <;> simp_all [need1]

/-- A failed 16-bit check names its own port. -/
theorem need16_error (p : Port) (s : Option Sig) (f : Fault) (h : need16 p s = .error f) :
    f = .uninitializedSignal p ∨ f = .invalidWidth p := by
  rcases s with _ | _ | _ | _ <;> simp_all [need16]

section
variable {α : Type} (k : α → Outcome)
@[simp] theorem check_ok (v : α) : check (.ok v) k = k v := rfl
@[simp] theorem check_error (f : Fault) : check (.error f) k = .fault f := rfl
@[simp] theorem element_some (e : α) : element (some e) k = k e := rfl
@[simp] theorem element_none : element none k = .refused .noSuchElement := rfl

@[simp] theorem check_next (c : Except Fault α) (t : State) :
    check c k = .next t ↔ ∃ v, c = .ok v ∧ k v = .next t := by
  cases c <;> simp

@[simp] theorem check_fault (c : Except Fault α) (f : Fault) :
    check c k = .fault f ↔ c = .error f ∨ ∃ v, c = .ok v ∧ k v = .fault f := by
  cases c <;> simp

@[simp] theorem slotted_next (s : State) (fwd : Option Fwd) (next : Outcome) (t : State) :
    slotted s fwd next = .next t ↔ slotOk s.slots fwd = true ∧ next = .next t := by
  unfold slotted
  split <;> simp [*]

@[simp] theorem slotted_fault (s : State) (fwd : Option Fwd) (next : Outcome) (f : Fault) :
    slotted s fwd next = .fault f ↔ slotOk s.slots fwd = true ∧ next = .fault f := by
  unfold slotted
  split <;> simp [*]

/-- Without a forwarding pair, or with one that names a slot of the circuit, forwarding stands in no one's way. -/
theorem slotted_eq (s : State) (fwd : Option Fwd) (next : Outcome) (h : slotOk s.slots fwd = true) :
    slotted s fwd next = next := by simp [slotted, h]

@[simp] theorem element_next (found : Option α) (t : State) :
    element found k = .next t ↔ ∃ e, found = some e ∧ k e = .next t := by
  cases found <;> simp

@[simp] theorem element_fault (found : Option α) (f : Fault) :
    element found k = .fault f ↔ ∃ e, found = some e ∧ k e = .fault f := by
  cases found <;> simp
end

/-! ### Bits and Registers -/

theorem BitCell.update_eq (c : BitCell) (input load : Bool) :
    c.update input load = (⟨c.cur, if load then input else c.cur⟩, c.cur) := by
  cases load <;> simp [BitCell.update]

/-- If every lane replies, the join gives the word. -/
theorem collect_eq_ok (replies : List (Nat × Bool)) (h : ∀ i, i < 16 → ∃ v, (i, v) ∈ replies) :
    collect replies = .ok (joinLanes replies) := by
  unfold collect
  split
  case h_1 lane found =>
    have hlt : lane < 16 := List.mem_range.mp (List.mem_of_find?_eq_some found)
    have hno := List.find?_some found
    obtain ⟨v, hv⟩ := h lane hlt
    simp only [Bool.not_eq_true', List.any_eq_false, beq_iff_eq] at hno
    exact absurd rfl (hno (lane, v) hv)
  case h_2 => rfl

@[simp] theorem collect_laneList (f : Nat → Bool) : collect (laneList f) = .ok (ofLanes f) :=
  collect_eq_ok _ fun i hi => ⟨f i, List.mem_map.mpr ⟨i, List.mem_range.mpr hi, rfl⟩⟩

/-- Register.Update: the staged word is the input or the committed word, the returned word is the committed one. -/
theorem RegCell.update_eq (c : RegCell) (word : Word) (load : Bool) :
    c.update word load = .ok (⟨c.cur, if load then word else c.cur⟩, c.cur) := by
  have hcur : (ofLanes fun i => (c.lane i).cur) = c.cur := ofLanes_getLsbD c.cur
  have hpend : (ofLanes fun i => if load = true then word.getLsbD i else (c.lane i).cur) =
      if load then word else c.cur := by
    cases load <;> simp [RegCell.lane]
  simp [RegCell.update, BitCell.update_eq, RegCell.ofCells, hcur, hpend, bind, Except.bind, pure, Except.pure]

/-- Register.Tick: the staged word becomes the committed one. -/
theorem RegCell.tick_eq (c : RegCell) : c.tick = ⟨c.pend, c.pend⟩ := by
  simp [RegCell.tick, RegCell.ofCells, BitCell.tick, RegCell.lane]

/-- All that Bit.Update can do. -/
theorem bitUpdate_next (b : Nat) (input load : Option Sig) (s t : State) :
    bitUpdate b input load s = .next t ↔
      ∃ c iv lv, s.bits[b]? = some c ∧ input = some (.bit iv) ∧ load = some (.bit lv) ∧
        t = (s.setBit b ⟨c.cur, if lv then iv else c.cur⟩).emit (.bit c.cur) := by
  simp only [bitUpdate, element_next, check_next, need1_eq_ok, BitCell.update_eq, Host.Outcome.next.injEq]
  constructor
  · rintro ⟨c, hc, iv, hi, lv, hl, rfl⟩
    exact ⟨c, iv, lv, hc, hi, hl, rfl⟩
  · rintro ⟨c, iv, lv, hc, hi, hl, rfl⟩
    exact ⟨c, hc, iv, hi, lv, hl, rfl⟩

/-- All that Bit.Tick can do. -/
theorem bitTick_next (b : Nat) (s t : State) :
    bitTick b s = .next t ↔ ∃ c, s.bits[b]? = some c ∧ t = (s.setBit b ⟨c.pend, c.pend⟩).emit .nothing := by
  simp only [bitTick, element_next, BitCell.tick, Host.Outcome.next.injEq]
  exact exists_congr fun c => and_congr_right fun _ => eq_comm

/-- All that Register.Update can do. -/
theorem regUpdate_next (r : Nat) (word load : Option Sig) (fwd : Option Fwd) (s t : State) :
    regUpdate r word load fwd s = .next t ↔
      slotOk s.slots fwd = true ∧ ∃ c ww lv, s.regs[r]? = some c ∧ word = some (.word ww) ∧ load = some (.bit lv) ∧
        t = ((s.setReg r ⟨c.cur, if lv then ww else c.cur⟩).forward r fwd c.cur).emit (.word c.cur) := by
  simp only [regUpdate, element_next, slotted_next, check_next, need1_eq_ok, need16_eq_ok, RegCell.update_eq,
    Except.ok.injEq]
  constructor
  · rintro ⟨c, hc, hs, ww, hw, lv, hl, done, rfl, h⟩
    exact ⟨hs, c, ww, lv, hc, hw, hl, (Host.Outcome.next.inj h).symm⟩
  · rintro ⟨hs, c, ww, lv, hc, hw, hl, rfl⟩
    exact ⟨c, hc, hs, ww, hw, lv, hl, _, rfl, rfl⟩

/-- All that Register.Tick can do. -/
theorem regTick_next (r : Nat) (s t : State) :
    regTick r s = .next t ↔ ∃ c, s.regs[r]? = some c ∧ t = (s.setReg r ⟨c.pend, c.pend⟩).emit .nothing := by
  simp only [regTick, element_next, RegCell.tick_eq, Host.Outcome.next.injEq]
  exact exists_congr fun c => and_congr_right fun _ => eq_comm

/-! ### The ALU -/

/-- The latches that pass every port check are exactly those that hold the values read. -/
theorem Latches.read_eq_ok (l : Latches) (p : AluIn) : l.read = .ok p ↔ l = p.latches := by
  obtain ⟨x, y, zx, nx, zy, ny, f, no⟩ := p
  obtain ⟨lx, ly, lzx, lnx, lzy, lny, lf, lno⟩ := l
  simp only [Latches.read, bind_eq_ok, need1_eq_ok, need16_eq_ok, Option.some.injEq, AluIn.latches, Latches.mk.injEq,
    pure, Except.pure, Except.ok.injEq, AluIn.mk.injEq]
  constructor
  · rintro ⟨_, rfl, _, rfl, _, rfl, _, rfl, _, rfl, _, rfl, _, rfl, _, rfl, rfl, rfl, rfl, rfl, rfl, rfl, rfl, rfl⟩
    simp
  · rintro ⟨rfl, rfl, rfl, rfl, rfl, rfl, rfl, rfl⟩
    simp

@[simp] theorem latches_read (p : AluIn) : p.latches.read = .ok p := (Latches.read_eq_ok _ _).mpr rfl

/-- All that ALU.Update can do. -/
theorem aluUpdate_next (a : Nat) (o : AluOpts) (s t : State) :
    aluUpdate a o s = .next t ↔
      ∃ (l : Latches) (p : AluIn), s.alus[a]? = some l ∧ l.drive o = p.latches ∧ t = (s.setAlu a p.latches).emit p.outputs := by
  simp only [aluUpdate, element_next, check_next, Latches.read_eq_ok, Host.Outcome.next.injEq]
  constructor
  · rintro ⟨l, hl, p, hp, rfl⟩
    exact ⟨l, p, hl, hp, by rw [hp]⟩
  · rintro ⟨l, p, hl, hp, rfl⟩
    exact ⟨l, hl, p, hp, by rw [hp]⟩

/-- With every flag driven, the latches hold the operands and the control word. -/
theorem drive_rowOpts (l : Latches) (c : Ctl) (x y : Option Sig) (xw yw : Word)
    (hx : x.getD l.x = .word xw) (hy : y.getD l.y = .word yw) :
    l.drive (rowOpts c x y) = (AluIn.ofCtl c xw yw).latches := by
  simp [Latches.drive, rowOpts, AluIn.latches, AluIn.ofCtl, hx, hy]

/-- An ALU row completes on two words, supplied now or before. -/
theorem aluRow_eq (c : Ctl) (a : Nat) (x y : Option Sig) (s : State) (l : Latches) (xw yw : Word)
    (hl : s.alus[a]? = some l) (hx : x.getD l.x = .word xw) (hy : y.getD l.y = .word yw) :
    aluRow c a x y s =
      .next ((s.setAlu a (AluIn.ofCtl c xw yw).latches).emit (AluIn.ofCtl c xw yw).outputs) :=
  (aluUpdate_next _ _ _ _).mpr ⟨l, _, hl, drive_rowOpts l c x y xw yw hx hy, rfl⟩

/-- The flags of a control word make up the control word. -/
theorem ctlOfFlags_ctlFlag : ∀ c : Ctl,
    ctlOfFlags (ctlFlag c 5) (ctlFlag c 4) (ctlFlag c 3) (ctlFlag c 2) (ctlFlag c 1) (ctlFlag c 0) = c := by
  decide

/-- The control word made of six flags has those flags. -/
theorem ctlFlag_ctlOfFlags : ∀ zx nx zy ny f no : Bool,
    ctlFlag (ctlOfFlags zx nx zy ny f no) 5 = zx ∧ ctlFlag (ctlOfFlags zx nx zy ny f no) 4 = nx ∧
    ctlFlag (ctlOfFlags zx nx zy ny f no) 3 = zy ∧ ctlFlag (ctlOfFlags zx nx zy ny f no) 2 = ny ∧
    ctlFlag (ctlOfFlags zx nx zy ny f no) 1 = f ∧ ctlFlag (ctlOfFlags zx nx zy ny f no) 0 = no := by
  decide

@[simp] theorem ctl_ofCtl (c : Ctl) (x y : Word) : (AluIn.ofCtl c x y).ctl = c := ctlOfFlags_ctlFlag c

/-- Values at the ports are those of their own control word. -/
@[simp] theorem ofCtl_ctl (p : AluIn) : AluIn.ofCtl p.ctl p.x p.y = p := by
  obtain ⟨h5, h4, h3, h2, h1, h0⟩ := ctlFlag_ctlOfFlags p.zx p.nx p.zy p.ny p.f p.no
  simp [AluIn.ofCtl, AluIn.ctl, h5, h4, h3, h2, h1, h0]

/-- The operation a control word selects runs that control word. -/
theorem exec_aluOfCtl (c : Ctl) (a : Nat) (x y : Option Sig) (s : State) :
    exec (aluOfCtl c a x y) s = aluRow c a x y s := by
  obtain ⟨⟨n, hn⟩⟩ := c
  have h : n < 64 := hn
  interval_cases n <;> rfl

end Sys2Proof.Machine
end

