-- ==== Sys2Proof/Laws/Decode.lean ====
section
/-! SUPPORT. Reading back each piece of an encoded line: a source, an argument, a forwarding pair, an element. -/

namespace Sys2Proof

theorem num16_numBytes (n : Nat) (h : n < 65536) : num16 (BitVec.ofNat 8 n) (BitVec.ofNat 8 (n / 256)) = n := by
  simp only [num16, BitVec.toNat_ofNat]
  omega

theorem word_of_bytes (w : Word) : ((w >>> 8).setWidth 8 : Byte) ++ (w.setWidth 8 : Byte) = w := by
  apply BitVec.eq_of_getLsbD_eq
  intro i hi
  rw [BitVec.getLsbD_append]
  by_cases h8 : i < 8
  · simp [h8]
  · have h : i - 8 < 8 := by omega
    have h' : 8 + (i - 8) = i := by omega
    simp [h8, h, h']

/-- A well-formed source reads back from its four bytes. -/
theorem srcOfBytes_encodeSrc (s : Src) (h : s.wf = true) :
    ∃ t d lo hi, encodeSrc s = [t, d, lo, hi] ∧ t.toNat < 5 ∧ srcOfBytes t d lo hi = .ok s := by
  match s with
  | .sig (.word w) =>
    refine ⟨_, _, _, _, rfl, by decide, ?_⟩
    have e : (0#8).toNat = 0 := rfl
    simp only [srcOfBytes, e, if_true, word_of_bytes]
  | .sig (.bit b) => exact ⟨_, _, _, _, rfl, by decide, by cases b <;> rfl⟩
  | .sig .invalid => exact ⟨_, _, _, _, rfl, by decide, rfl⟩
  | .out back port =>
    have hb : back < 65536 := of_decide_eq_true h
    refine ⟨_, _, _, _, rfl, by decide, ?_⟩
    cases port <;> simp [srcOfBytes, outPortCode, num16_numBytes back hb]
  | .bitOf back i =>
    simp only [Src.wf, Bool.and_eq_true, decide_eq_true_eq] at h
    have hb : back < 65536 ∧ i < 16 := h
    refine ⟨_, _, _, _, rfl, by decide, ?_⟩
    have hi : i % 256 = i := by omega
    simp [srcOfBytes, num16_numBytes back hb.1, hi]

theorem readSrc_encodeSrc (s : Src) (h : s.wf = true) (rest : List Byte) :
    readSrc (encodeSrc s ++ rest) = .ok (s, rest) := by
  obtain ⟨t, d, lo, hi, henc, -, hs⟩ := srcOfBytes_encodeSrc s h
  simp [henc, readSrc, hs, bind, Except.bind, pure, Except.pure]

theorem readSrcs_encode (lanes : List Src) (h : lanes.all Src.wf = true) (rest : List Byte) :
    readSrcs lanes.length (lanes.flatMap encodeSrc ++ rest) = .ok (lanes, rest) := by
  induction lanes with
  | nil => rfl
  | cons s more ih =>
    simp only [List.all_cons, Bool.and_eq_true] at h
    simp [readSrcs, List.append_assoc, readSrc_encodeSrc s h.1, ih h.2, bind, Except.bind, pure, Except.pure]

/-- A well-formed argument reads back from its bytes. -/
theorem readArg_encodeArg (a : Arg) (h : a.wf = true) (rest : List Byte) :
    readArg (encodeArg a ++ rest) = .ok (a, rest) := by
  match a with
  | .absent => rfl
  | .src s =>
    obtain ⟨t, d, lo, hi, henc, ht, hs⟩ := srcOfBytes_encodeSrc s h
    have h5 : t.toNat ≠ 5 := by omega
    have h6 : t.toNat ≠ 6 := by omega
    simp only [encodeArg, henc, List.cons_append, List.nil_append, readArg]
    simp [hs, bind, Except.bind, pure, Except.pure]
  | .bundle lanes =>
    simp only [Arg.wf, Bool.and_eq_true, decide_eq_true_eq] at h
    have hr := readSrcs_encode lanes h.2 rest
    rw [h.1] at hr
    simp [encodeArg, readArg, hr, bind, Except.bind, pure, Except.pure]

/-- A well-formed forwarding pair, or its absence, reads back. -/
theorem readFwd_encodeFwd (f : Option Fwd) (h : fwdWf .encodable f = true) (rest : List Byte) :
    readFwd (encodeFwd f ++ rest) = .ok (f, rest) := by
  match f with
  | none => rfl
  | some ⟨chan, slot⟩ =>
    simp only [fwdWf, slotOk, Option.all_some, Bool.and_eq_true, decide_eq_true_eq] at h
    have hf : chan < 256 ∧ slot < 65536 := ⟨h.2, h.1⟩
    have hc : chan % 256 = chan := by omega
    simp [encodeFwd, readFwd, numBytes, num16_numBytes slot hf.2, hc]

/-- An element's number reads back. -/
theorem readElement_encode (n : Nat) (h : n < 256) (rest : List Byte) :
    readElement (encodeElement n :: rest) = .ok (n, rest) := by
  have hn : n % 256 = n := by omega
  simp [readElement, encodeElement, hn]

end Sys2Proof
end

