-- ==== Sys2Proof/Laws/Exec.lean ====
section
/-! SUPPORT. What an operation can do, said once for all of them: six ways in which a next state differs from the state
before. Claims about every operation are cases over these six, not over the constructors of Instr. -/

namespace Sys2Proof.Machine

/-- The six ways the operation `i` changes the state, each with which operation it is and which element it addresses. -/
inductive Change (i : Instr) (s : State) : State → Prop where
  /-- A gate returns its output and changes nothing else. -/
  | output (o : Outputs) (op : (gatePorts i).isSome = true) : Change i s (s.emit o)
  /-- Bit.Update stages and returns the committed value. -/
  | stageBit (b : Nat) (c : BitCell) (input load : Bool) (op : updatesBit b i = true) (found : s.bits[b]? = some c) :
      Change i s ((s.setBit b ⟨c.cur, if load then input else c.cur⟩).emit (.bit c.cur))
  /-- Bit.Tick commits. -/
  | commitBit (b : Nat) (c : BitCell) (op : i = .bitTick b) (found : s.bits[b]? = some c) :
      Change i s ((s.setBit b ⟨c.pend, c.pend⟩).emit .nothing)
  /-- Register.Update stages, forwards if asked and returns the committed word. -/
  | stageReg (r : Nat) (c : RegCell) (word : Word) (load : Bool) (fwd : Option Fwd) (op : updatesReg r i = true)
      (found : s.regs[r]? = some c) :
      Change i s (((s.setReg r ⟨c.cur, if load then word else c.cur⟩).forward r fwd c.cur).emit (.word c.cur))
  /-- Register.Tick commits. -/
  | commitReg (r : Nat) (c : RegCell) (op : i = .regTick r) (found : s.regs[r]? = some c) :
      Change i s ((s.setReg r ⟨c.pend, c.pend⟩).emit .nothing)
  /-- ALU.Update latches valid Signals and returns the pipeline's outputs. -/
  | settle (c : Ctl) (a : Nat) (x y : Option Sig) (l : Latches) (o : AluOpts) (p : AluIn)
      (op : i = aluOfCtl c a x y) (found : s.alus[a]? = some l) (driven : l.drive o = p.latches) :
      Change i s ((s.setAlu a p.latches).emit p.outputs)

theorem change_of_bitUpdate {i : Instr} {b : Nat} {input load : Option Sig} {s t : State}
    (op : updatesBit b i = true) (h : bitUpdate b input load s = .next t) : Change i s t := by
  obtain ⟨c, iv, lv, hc, -, -, rfl⟩ := (bitUpdate_next ..).mp h
  exact .stageBit b c iv lv op hc

theorem change_of_regUpdate {i : Instr} {r : Nat} {word load : Option Sig} {fwd : Option Fwd} {s t : State}
    (op : updatesReg r i = true) (h : regUpdate r word load fwd s = .next t) : Change i s t := by
  obtain ⟨-, c, ww, lv, hc, -, -, rfl⟩ := (regUpdate_next ..).mp h
  exact .stageReg r c ww lv fwd op hc

theorem change_of_aluRow {i : Instr} {c : Ctl} {a : Nat} {x y : Option Sig} {s t : State}
    (h : aluRow c a x y s = .next t) (op : i = aluOfCtl c a x y) : Change i s t := by
  obtain ⟨l, p, hl, hp, rfl⟩ := (aluUpdate_next ..).mp h
  exact .settle c a x y l _ p op hl hp

/-- A check that passes changes nothing; what it goes on to decides. -/
theorem change_of_check {α : Type} {i : Instr} {c : Except Fault α} {k : α → Outcome} {s t : State}
    (h : check c k = .next t) (hk : ∀ v, k v = .next t → Change i s t) : Change i s t := by
  obtain ⟨v, -, hv⟩ := (check_next ..).mp h
  exact hk v hv

theorem change_of_emit {i : Instr} {o : Outputs} {s t : State} (h : Host.Outcome.next (s.emit o) = (.next t : Outcome))
    (op : (gatePorts i).isSome = true) : Change i s t := by
  cases h
  exact .output o op

theorem change_of_gate1 {i : Instr} {fn : Bool → Bool} {a : Option Sig} {s t : State}
    (op : (gatePorts i).isSome = true) (h : gate1 fn a s = .next t) : Change i s t :=
  change_of_check h fun _ h => change_of_emit h op

theorem change_of_gate2 {i : Instr} {fn : Bool → Bool → Bool} {a b : Option Sig} {s t : State}
    (op : (gatePorts i).isSome = true) (h : gate2 fn a b s = .next t) : Change i s t :=
  change_of_check h fun _ h => change_of_check h fun _ h => change_of_emit h op

theorem change_of_wide1 {i : Instr} {fn : Word → Word} {a : Option Sig} {s t : State}
    (op : (gatePorts i).isSome = true) (h : wide1 fn a s = .next t) : Change i s t :=
  change_of_check h fun _ h => change_of_emit h op

theorem change_of_wide2 {i : Instr} {fn : Word → Word → Word} {a b : Option Sig} {s t : State}
    (op : (gatePorts i).isSome = true) (h : wide2 fn a b s = .next t) : Change i s t :=
  change_of_check h fun _ h => change_of_check h fun _ h => change_of_emit h op

/-- An operation that answers a next state has changed the state in one of the six ways. -/
theorem exec_change {i : Instr} {s t : State} (h : exec i s = .next t) : Change i s t := by
  cases i with
  | bitHold b input => exact change_of_bitUpdate (beq_self_eq_true b) h
  | bitLoad b input => exact change_of_bitUpdate (beq_self_eq_true b) h
  | regHold r word fwd => exact change_of_regUpdate (beq_self_eq_true r) h
  | regLoad r word fwd => exact change_of_regUpdate (beq_self_eq_true r) h
  | bitTick b =>
    obtain ⟨c, hc, rfl⟩ := (bitTick_next ..).mp h
    exact .commitBit b c rfl hc
  | regTick r =>
    obtain ⟨c, hc, rfl⟩ := (regTick_next ..).mp h
    exact .commitReg r c rfl hc
  | notGate a => exact change_of_gate1 rfl h
  | andGate a b => exact change_of_gate2 rfl h
  | orGate a b => exact change_of_gate2 rfl h
  | muxGate a b sel =>
    exact change_of_check h fun _ h => change_of_check h fun _ h => change_of_check h fun _ h => change_of_emit h rfl
  | not16 a => exact change_of_wide1 rfl h
  | and16 a b => exact change_of_wide2 rfl h
  | mux16 a b sel =>
    exact change_of_check h fun _ h => change_of_check h fun _ h => change_of_check h fun _ h => change_of_emit h rfl
  | add16 a b => exact change_of_wide2 rfl h
  | or8way i0 i1 i2 i3 i4 i5 i6 i7 =>
    exact change_of_check h fun _ h => change_of_check h fun _ h => change_of_check h fun _ h =>
      change_of_check h fun _ h => change_of_check h fun _ h => change_of_check h fun _ h =>
      change_of_check h fun _ h => change_of_check h fun _ h => change_of_emit h rfl
  | _ => exact change_of_aluRow h rfl

/-! ### What an operation leaves alone, from the six ways -/

/-- An operation that neither updates nor ticks a Register leaves it alone. -/
theorem exec_regs {i : Instr} {s t : State} (h : exec i s = .next t) (r : Nat) (hu : updatesReg r i = false)
    (ht : ticksReg r i = false) : t.regs[r]? = s.regs[r]? := by
  cases exec_change h with
  | stageReg q c word load fwd op found =>
    have hq : q ≠ r := by rintro rfl; simp [hu] at op
    simp [List.getElem?_set_ne hq]
  | commitReg q c op found =>
    have hq : q ≠ r := by rintro rfl; simp [op, ticksReg] at ht
    simp [List.getElem?_set_ne hq]
  | _ => rfl

/-- An operation that neither updates nor ticks a free-standing Bit leaves it alone. -/
theorem exec_bits {i : Instr} {s t : State} (h : exec i s = .next t) (b : Nat) (hu : updatesBit b i = false)
    (ht : ticksBit b i = false) : t.bits[b]? = s.bits[b]? := by
  cases exec_change h with
  | stageBit q c input load op found =>
    have hq : q ≠ b := by rintro rfl; simp [hu] at op
    simp [List.getElem?_set_ne hq]
  | commitBit q c op found =>
    have hq : q ≠ b := by rintro rfl; simp [op, ticksBit] at ht
    simp [List.getElem?_set_ne hq]
  | stageReg => simp
  | _ => rfl

/-- No operation loads a trace, changes SLOTS or makes or unmakes an element. -/
theorem exec_circuit {i : Instr} {s t : State} (h : exec i s = .next t) : t.todo = s.todo ∧ t.circuit = s.circuit := by
  cases exec_change h <;> simp [State.circuit]

/-- Each operation returns one output, and takes back neither an output nor an event. -/
theorem exec_outs {i : Instr} {s t : State} (h : exec i s = .next t) :
    (∃ o, t.outs = o :: s.outs) ∧ s.events <:+ t.events := by
  cases exec_change h with
  | stageReg r c word load fwd op found => cases fwd <;> simp
  | _ => simp

end Sys2Proof.Machine
end

