-- ==== Sys2Proof/Laws/Harness.lean ====
section
/-! SUPPORT. Laws of the port checks and of lines whose Signals are written out: an Update that passes its checks one
by one raises the first failure, and a written-out line is the element's Update. -/

namespace Sys2Proof.Machine

/-! ### Port checks in order -/

theorem raisesFirst_next (t : State) : RaisesFirst [] (.next t) := by simp [RaisesFirst, firstFault]

/-- A 1-bit check puts its port in front of the ports checked after it. -/
theorem raisesFirst_need1 {p : Port} {g : Option Sig} {ports : List PortCheck} {k : Bool → Outcome}
    (h : ∀ v, g = some (.bit v) → RaisesFirst ports (k v)) :
    RaisesFirst (⟨p, false, g⟩ :: ports) (check (need1 p g) k) := by
  rcases g with _ | _ | v | _
  case some.bit => exact h v rfl
  all_goals simp [RaisesFirst, firstFault, List.findSome?_cons, PortCheck.fault, need1]

/-- A 16-bit check puts its port in front of the ports checked after it. -/
theorem raisesFirst_need16 {p : Port} {g : Option Sig} {ports : List PortCheck} {k : Word → Outcome}
    (h : ∀ w, g = some (.word w) → RaisesFirst ports (k w)) :
    RaisesFirst (⟨p, true, g⟩ :: ports) (check (need16 p g) k) := by
  rcases g with _ | _ | _ | w
  case some.word => exact h w rfl
  all_goals simp [RaisesFirst, firstFault, List.findSome?_cons, PortCheck.fault, need16]

/-- Checks in a row are checked one by one. -/
theorem check_bind {α β : Type} (c : Except Fault α) (k : α → Except Fault β) (next : β → Outcome) :
    check (c >>= k) next = check c fun v => check (k v) next := by
  cases c <;> rfl

/-! ### Written-out lines -/

/-- A Signal written out resolves to itself, whatever was returned before. -/
@[simp] theorem resolve_ofSig (outs : List Outputs) (p : Port) (g : Option Sig) :
    resolve outs p (.ofSig g) = .ok g := by
  cases g <;> rfl

/-- A Bit's line is its Update. -/
theorem runLine_bitLine (b : Nat) (input load : Option Sig) (s : State) (c : BitCell) (h : s.bits[b]? = some c) :
    runLine (bitLine b input load) s = bitUpdate b input load s := by
  rcases input with _ | _ | _ | _ <;> rcases load with _ | _ | v | _ <;> try
    simp [runLine, issue, bitLine, issueBit, h, needElement, faulting, need1, bitUpdate, bind, Except.bind, pure,
      Except.pure]
  cases v <;> simp [exec, execBitLoad, execBitHold, bitUpdate, h]

/-- A Register's line is its Update. -/
theorem runLine_regLine (r : Nat) (word load : Option Sig) (fwd : Option Fwd) (s : State) (c : RegCell)
    (h : s.regs[r]? = some c) : runLine (regLine r word load fwd) s = regUpdate r word load fwd s := by
  by_cases hs : slotOk s.slots fwd = true
  · rcases word with _ | _ | _ | _ <;> rcases load with _ | _ | v | _ <;> try
      simp [runLine, issue, regLine, issueReg, h, hs, needElement, needSlot, faulting, need1, need16, regUpdate, slotted,
        bind, Except.bind, pure, Except.pure]
    cases v <;> simp [exec, execRegLoad, execRegHold, regUpdate, h, hs, slotted]
  · simp [runLine, issue, regLine, issueReg, h, hs, needElement, needSlot, regUpdate, slotted, bind, Except.bind]

/-- Driving the flags with the control word that the latches come to hold anyway changes nothing. -/
theorem drive_ctl (l : Latches) (o : AluOpts) (p : AluIn) (h : l.drive o = p.latches) :
    l.drive (rowOpts p.ctl o.x o.y) = p.latches := by
  rw [drive_rowOpts l p.ctl o.x o.y p.x p.y (congrArg Latches.x h) (congrArg Latches.y h), ofCtl_ctl]

/-- An ALU's line is its Update: selecting the row of the latched control word and running it comes to the same. -/
theorem runLine_optsLine (a : Nat) (o : AluOpts) (s : State) (l : Latches) (h : s.alus[a]? = some l) :
    runLine (optsLine a o) s = aluUpdate a o s := by
  have e : issue s (optsLine a o) = (issueAlu s a o >>= fun i => pure (.op i)) := by
    simp [optsLine, issue, bind, Except.bind]
  simp only [runLine, e, issueAlu, h, needElement]
  cases hr : (l.drive o).read with
  | error f => simp [aluUpdate, h, hr, bind, Except.bind, faulting]
  | ok p =>
    have hp := (Latches.read_eq_ok _ _).mp hr
    simp only [bind, Except.bind, pure, Except.pure, hr, faulting]
    rw [exec_aluOfCtl]
    simp [aluRow, aluUpdate, h, drive_ctl l o p hp, hp]

/-! ### Wired lines -/

/-- Arguments that resolve alike can stand for one another, on any port of any line. -/
theorem runLine_rewire (change : Port → Arg → Arg) (s : State) (l : Line)
    (h : ∀ p a, resolve s.outs p (change p a) = resolve s.outs p a) : runLine (rewire change l) s = runLine l s := by
  cases l <;> simp only [rewire, runLine, issue, h]

/-- What a line issues once its arguments have resolved, in port-list order. -/
def issueWith (s : State) : Line → List (Option Sig) → Except Stop Issued
  | .notGate _, [a] => .ok (.op (.notGate a))
  | .andGate _ _, [a, b] => .ok (.op (.andGate a b))
  | .orGate _ _, [a, b] => .ok (.op (.orGate a b))
  | .muxGate _ _ _, [a, b, sel] => .ok (.op (.muxGate a b sel))
  | .not16 _, [a] => .ok (.op (.not16 a))
  | .and16 _ _, [a, b] => .ok (.op (.and16 a b))
  | .mux16 _ _ _, [a, b, sel] => .ok (.op (.mux16 a b sel))
  | .add16 _ _, [a, b] => .ok (.op (.add16 a b))
  | .or8way _ _ _ _ _ _ _ _, [i0, i1, i2, i3, i4, i5, i6, i7] => .ok (.op (.or8way i0 i1 i2 i3 i4 i5 i6 i7))
  | .bitUpdate b _ _, [input, load] => Issued.op <$> issueBit s b input load
  | .regUpdate r _ _ fwd, [word, load] => Issued.op <$> issueReg s r word load fwd
  | .aluUpdate a _ _ _ _ _ _ _ _, [x, y, zx, nx, zy, ny, f, no] =>
    Issued.op <$> issueAlu s a ⟨x, y, zx, nx, zy, ny, f, no⟩
  | .bitTick b, [] => .ok (.op (.bitTick b))
  | .regTick r, [] => .ok (.op (.regTick r))
  | .tick, [] => .ok .edge
  | _, _ => .error (.refused .noSuchOutput)

/-- A line resolves its arguments in port-list order, then issues. -/
theorem issue_eq (s : State) (l : Line) :
    issue s l = (lineArgs l).mapM (fun arg => resolve s.outs arg.1 arg.2) >>= issueWith s l := by
  cases l <;> simp [issue, lineArgs, pure, Except.pure] <;> rfl

/-- The first argument that does not resolve decides. -/
theorem mapM_resolve_error (outs : List Outputs) (pre post : List (Port × Arg)) (p : Port) (a : Arg) (e : Stop)
    (hpre : ∀ arg ∈ pre, ∃ g, resolve outs arg.1 arg.2 = .ok g) (ha : resolve outs p a = .error e) :
    (pre ++ (p, a) :: post).mapM (fun arg => resolve outs arg.1 arg.2) = .error e := by
  induction pre with
  | nil => simp [List.mapM_cons, ha, bind, Except.bind]
  | cons arg pre ih =>
    obtain ⟨g, hg⟩ := hpre arg (by simp)
    simp only [List.cons_append, List.mapM_cons, hg]
    rw [ih fun q hq => hpre q (by simp [hq])]
    rfl

/-- A line stops at the first of its arguments that does not resolve. -/
theorem issue_error (s : State) (l : Line) (pre post : List (Port × Arg)) (p : Port) (a : Arg) (e : Stop)
    (hl : lineArgs l = pre ++ (p, a) :: post) (hpre : ∀ arg ∈ pre, Wired s arg)
    (ha : resolve s.outs p a = .error e) : issue s l = .error e := by
  rw [issue_eq, hl, mapM_resolve_error s.outs pre post p a e hpre ha]
  rfl

end Sys2Proof.Machine
end

