-- ==== Sys2Proof/Laws/PerInstr.lean ====
section
/-! SUPPORT. One family of statements about every operation as it is written: the line that writes it out reads back as
it (StaticLine). One lemma per constructor. -/

-- The host compiles under a limit on memory that a thread per lemma would exceed.
set_option Elab.async false

namespace Sys2Proof.Laws.StaticLine

open Sys2Proof.Machine

/-- The line that writes the operation out is that operation and waits for no earlier output. -/
def Statement (i : Instr) : Prop := i.toLine.static = some i

@[simp] theorem literal_ofSig (o : Option Sig) : (Arg.ofSig o).literal = some o := by cases o <;> rfl

@[simp] theorem literalBit_bit (b : Bool) : (Arg.bit b).literalBit = some b := rfl

/-- The line of an ALU row reads back as the row its control word selects. -/
theorem static_aluLine (c : Ctl) (a : Nat) (x y : Option Sig) :
    (aluLine c a x y).static = some (aluOfCtl c a x y) := by
  simp [aluLine, Line.static, literalCtl, ctlOfFlags_ctlFlag]

theorem aluZero (a : Nat) (x y : Option Sig) : Statement (.aluZero a x y) := static_aluLine 0b101010#6 a x y
theorem aluOne (a : Nat) (x y : Option Sig) : Statement (.aluOne a x y) := static_aluLine 0b111111#6 a x y
theorem aluNeg1 (a : Nat) (x y : Option Sig) : Statement (.aluNeg1 a x y) := static_aluLine 0b111010#6 a x y
theorem aluX (a : Nat) (x y : Option Sig) : Statement (.aluX a x y) := static_aluLine 0b001100#6 a x y
theorem aluY (a : Nat) (x y : Option Sig) : Statement (.aluY a x y) := static_aluLine 0b110000#6 a x y
theorem aluNotx (a : Nat) (x y : Option Sig) : Statement (.aluNotx a x y) := static_aluLine 0b001101#6 a x y
theorem aluNoty (a : Nat) (x y : Option Sig) : Statement (.aluNoty a x y) := static_aluLine 0b110001#6 a x y
theorem aluNegx (a : Nat) (x y : Option Sig) : Statement (.aluNegx a x y) := static_aluLine 0b001111#6 a x y
theorem aluNegy (a : Nat) (x y : Option Sig) : Statement (.aluNegy a x y) := static_aluLine 0b110011#6 a x y
theorem aluIncx (a : Nat) (x y : Option Sig) : Statement (.aluIncx a x y) := static_aluLine 0b011111#6 a x y
theorem aluIncy (a : Nat) (x y : Option Sig) : Statement (.aluIncy a x y) := static_aluLine 0b110111#6 a x y
theorem aluDecx (a : Nat) (x y : Option Sig) : Statement (.aluDecx a x y) := static_aluLine 0b001110#6 a x y
theorem aluDecy (a : Nat) (x y : Option Sig) : Statement (.aluDecy a x y) := static_aluLine 0b110010#6 a x y
theorem aluAdd (a : Nat) (x y : Option Sig) : Statement (.aluAdd a x y) := static_aluLine 0b000010#6 a x y
theorem aluSubxy (a : Nat) (x y : Option Sig) : Statement (.aluSubxy a x y) := static_aluLine 0b010011#6 a x y
theorem aluSubyx (a : Nat) (x y : Option Sig) : Statement (.aluSubyx a x y) := static_aluLine 0b000111#6 a x y
theorem aluAndxy (a : Nat) (x y : Option Sig) : Statement (.aluAndxy a x y) := static_aluLine 0b000000#6 a x y
theorem aluOrxy (a : Nat) (x y : Option Sig) : Statement (.aluOrxy a x y) := static_aluLine 0b010101#6 a x y
theorem aluC000001 (a : Nat) (x y : Option Sig) : Statement (.aluC000001 a x y) := static_aluLine 0b000001#6 a x y
theorem aluC000011 (a : Nat) (x y : Option Sig) : Statement (.aluC000011 a x y) := static_aluLine 0b000011#6 a x y
theorem aluC000100 (a : Nat) (x y : Option Sig) : Statement (.aluC000100 a x y) := static_aluLine 0b000100#6 a x y
theorem aluC000101 (a : Nat) (x y : Option Sig) : Statement (.aluC000101 a x y) := static_aluLine 0b000101#6 a x y
theorem aluC000110 (a : Nat) (x y : Option Sig) : Statement (.aluC000110 a x y) := static_aluLine 0b000110#6 a x y
theorem aluC001000 (a : Nat) (x y : Option Sig) : Statement (.aluC001000 a x y) := static_aluLine 0b001000#6 a x y
theorem aluC001001 (a : Nat) (x y : Option Sig) : Statement (.aluC001001 a x y) := static_aluLine 0b001001#6 a x y
theorem aluC001010 (a : Nat) (x y : Option Sig) : Statement (.aluC001010 a x y) := static_aluLine 0b001010#6 a x y
theorem aluC001011 (a : Nat) (x y : Option Sig) : Statement (.aluC001011 a x y) := static_aluLine 0b001011#6 a x y
theorem aluC010000 (a : Nat) (x y : Option Sig) : Statement (.aluC010000 a x y) := static_aluLine 0b010000#6 a x y
theorem aluC010001 (a : Nat) (x y : Option Sig) : Statement (.aluC010001 a x y) := static_aluLine 0b010001#6 a x y
theorem aluC010010 (a : Nat) (x y : Option Sig) : Statement (.aluC010010 a x y) := static_aluLine 0b010010#6 a x y
theorem aluC010100 (a : Nat) (x y : Option Sig) : Statement (.aluC010100 a x y) := static_aluLine 0b010100#6 a x y
theorem aluC010110 (a : Nat) (x y : Option Sig) : Statement (.aluC010110 a x y) := static_aluLine 0b010110#6 a x y
theorem aluC010111 (a : Nat) (x y : Option Sig) : Statement (.aluC010111 a x y) := static_aluLine 0b010111#6 a x y
theorem aluC011000 (a : Nat) (x y : Option Sig) : Statement (.aluC011000 a x y) := static_aluLine 0b011000#6 a x y
theorem aluC011001 (a : Nat) (x y : Option Sig) : Statement (.aluC011001 a x y) := static_aluLine 0b011001#6 a x y
theorem aluC011010 (a : Nat) (x y : Option Sig) : Statement (.aluC011010 a x y) := static_aluLine 0b011010#6 a x y
theorem aluC011011 (a : Nat) (x y : Option Sig) : Statement (.aluC011011 a x y) := static_aluLine 0b011011#6 a x y
theorem aluC011100 (a : Nat) (x y : Option Sig) : Statement (.aluC011100 a x y) := static_aluLine 0b011100#6 a x y
theorem aluC011101 (a : Nat) (x y : Option Sig) : Statement (.aluC011101 a x y) := static_aluLine 0b011101#6 a x y
theorem aluC011110 (a : Nat) (x y : Option Sig) : Statement (.aluC011110 a x y) := static_aluLine 0b011110#6 a x y
theorem aluC100000 (a : Nat) (x y : Option Sig) : Statement (.aluC100000 a x y) := static_aluLine 0b100000#6 a x y
theorem aluC100001 (a : Nat) (x y : Option Sig) : Statement (.aluC100001 a x y) := static_aluLine 0b100001#6 a x y
theorem aluC100010 (a : Nat) (x y : Option Sig) : Statement (.aluC100010 a x y) := static_aluLine 0b100010#6 a x y
theorem aluC100011 (a : Nat) (x y : Option Sig) : Statement (.aluC100011 a x y) := static_aluLine 0b100011#6 a x y
theorem aluC100100 (a : Nat) (x y : Option Sig) : Statement (.aluC100100 a x y) := static_aluLine 0b100100#6 a x y
theorem aluC100101 (a : Nat) (x y : Option Sig) : Statement (.aluC100101 a x y) := static_aluLine 0b100101#6 a x y
theorem aluC100110 (a : Nat) (x y : Option Sig) : Statement (.aluC100110 a x y) := static_aluLine 0b100110#6 a x y
theorem aluC100111 (a : Nat) (x y : Option Sig) : Statement (.aluC100111 a x y) := static_aluLine 0b100111#6 a x y
theorem aluC101000 (a : Nat) (x y : Option Sig) : Statement (.aluC101000 a x y) := static_aluLine 0b101000#6 a x y
theorem aluC101001 (a : Nat) (x y : Option Sig) : Statement (.aluC101001 a x y) := static_aluLine 0b101001#6 a x y
theorem aluC101011 (a : Nat) (x y : Option Sig) : Statement (.aluC101011 a x y) := static_aluLine 0b101011#6 a x y
theorem aluC101100 (a : Nat) (x y : Option Sig) : Statement (.aluC101100 a x y) := static_aluLine 0b101100#6 a x y
theorem aluC101101 (a : Nat) (x y : Option Sig) : Statement (.aluC101101 a x y) := static_aluLine 0b101101#6 a x y
theorem aluC101110 (a : Nat) (x y : Option Sig) : Statement (.aluC101110 a x y) := static_aluLine 0b101110#6 a x y
theorem aluC101111 (a : Nat) (x y : Option Sig) : Statement (.aluC101111 a x y) := static_aluLine 0b101111#6 a x y
theorem aluC110100 (a : Nat) (x y : Option Sig) : Statement (.aluC110100 a x y) := static_aluLine 0b110100#6 a x y
theorem aluC110101 (a : Nat) (x y : Option Sig) : Statement (.aluC110101 a x y) := static_aluLine 0b110101#6 a x y
theorem aluC110110 (a : Nat) (x y : Option Sig) : Statement (.aluC110110 a x y) := static_aluLine 0b110110#6 a x y
theorem aluC111000 (a : Nat) (x y : Option Sig) : Statement (.aluC111000 a x y) := static_aluLine 0b111000#6 a x y
theorem aluC111001 (a : Nat) (x y : Option Sig) : Statement (.aluC111001 a x y) := static_aluLine 0b111001#6 a x y
theorem aluC111011 (a : Nat) (x y : Option Sig) : Statement (.aluC111011 a x y) := static_aluLine 0b111011#6 a x y
theorem aluC111100 (a : Nat) (x y : Option Sig) : Statement (.aluC111100 a x y) := static_aluLine 0b111100#6 a x y
theorem aluC111101 (a : Nat) (x y : Option Sig) : Statement (.aluC111101 a x y) := static_aluLine 0b111101#6 a x y
theorem aluC111110 (a : Nat) (x y : Option Sig) : Statement (.aluC111110 a x y) := static_aluLine 0b111110#6 a x y
theorem bitHold (b : Nat) (input : Option Sig) : Statement (.bitHold b input) := by simp [Statement, Instr.toLine, Line.static]
theorem bitLoad (b : Nat) (input : Option Sig) : Statement (.bitLoad b input) := by simp [Statement, Instr.toLine, Line.static]
theorem regHold (r : Nat) (word : Option Sig) (fwd : Option Fwd) : Statement (.regHold r word fwd) := by simp [Statement, Instr.toLine, Line.static]
theorem regLoad (r : Nat) (word : Option Sig) (fwd : Option Fwd) : Statement (.regLoad r word fwd) := by simp [Statement, Instr.toLine, Line.static]
theorem bitTick (b : Nat) : Statement (.bitTick b) := rfl
theorem regTick (r : Nat) : Statement (.regTick r) := rfl
theorem notGate (a : Option Sig) : Statement (.notGate a) := by simp [Statement, Instr.toLine, Line.static]
theorem andGate (a b : Option Sig) : Statement (.andGate a b) := by simp [Statement, Instr.toLine, Line.static]
theorem orGate (a b : Option Sig) : Statement (.orGate a b) := by simp [Statement, Instr.toLine, Line.static]
theorem muxGate (a b sel : Option Sig) : Statement (.muxGate a b sel) := by simp [Statement, Instr.toLine, Line.static]
theorem not16 (a : Option Sig) : Statement (.not16 a) := by simp [Statement, Instr.toLine, Line.static]
theorem and16 (a b : Option Sig) : Statement (.and16 a b) := by simp [Statement, Instr.toLine, Line.static]
theorem mux16 (a b sel : Option Sig) : Statement (.mux16 a b sel) := by simp [Statement, Instr.toLine, Line.static]
theorem add16 (a b : Option Sig) : Statement (.add16 a b) := by simp [Statement, Instr.toLine, Line.static]
theorem or8way (in0 in1 in2 in3 in4 in5 in6 in7 : Option Sig) : Statement (.or8way in0 in1 in2 in3 in4 in5 in6 in7) := by simp [Statement, Instr.toLine, Line.static]

end Sys2Proof.Laws.StaticLine
end

