-- ==== Sys2Proof/Tests/Slice0.lean ====
section
/-! SUPPORT. The model's own tests: ill-formed operations and lines are refused, words written out from the spec's
encodings decode to what they stand for, single operations give the values of 95_test_vectors.md and R179, and every
statement with hypotheses has a state that meets them. -/

-- The host compiles under a limit on memory that a thread per theorem would exceed.
set_option Elab.async false

namespace Sys2Proof.Tests

open Sys2Proof.Machine

/-- A circuit of two Registers, two Bits, two ALUs and four slots, the second ALU with valid latches, some outputs behind
it. -/
def small : State where
  regs := [⟨0x00FF#16, 0x1234#16⟩, ⟨0xA5A5#16, 0xA5A5#16⟩]
  bits := [⟨false, true⟩, ⟨true, true⟩]
  alus := [Latches.fresh,
    ⟨.word 0x1234#16, .word 0xABCD#16, .bit false, .bit false, .bit false, .bit false, .bit true, .bit false⟩]
  slots := 4
  todo := []
  outs := [.word 0x8001#16, .bit true, .alu 0x0000#16 true false, .nothing]
  events := []

/-- `small` with a trace. -/
def withTrace (bytes : List Byte) : State := { small with todo := bytes }

/-- What an operation returns in `small`. -/
def returned (i : Instr) : Option Outputs := outOf (exec i small)

/-- The fault an operation ends in, in `small`. -/
def raised (i : Instr) : Option Fault := faultOf (exec i small)

/-- The Signals of the trace notation of R80. -/
def b0 : Option Sig := some (.bit false)
def b1 : Option Sig := some (.bit true)
def inv : Option Sig := some .invalid
def w (n : Nat) : Option Sig := some (.word (BitVec.ofNat 16 n))

/-! ### Ill-formed terms are refused -/

theorem test_wf_alu_number : (Instr.aluAdd 255 none none).wf .encodable = true ∧ (Instr.aluAdd 256 none none).wf .encodable = false := by
  decide
theorem test_wf_other_alu_number : (Instr.aluC010111 256 none none).wf .encodable = false := by decide
theorem test_wf_bit_number : (Instr.bitLoad 255 b1).wf .encodable = true ∧ (Instr.bitLoad 256 b1).wf .encodable = false := by decide
theorem test_wf_bit_tick_number : (Instr.bitTick 256).wf .encodable = false := by decide
theorem test_wf_reg_number : (Instr.regHold 255 (w 0) none).wf .encodable = true ∧ (Instr.regHold 256 (w 0) none).wf .encodable = false := by
  decide
theorem test_wf_reg_tick_number : (Instr.regTick 256).wf .encodable = false := by decide
theorem test_wf_channel :
    (Instr.regLoad 0 (w 0) (some ⟨255, 0⟩)).wf .encodable = true ∧ (Instr.regLoad 0 (w 0) (some ⟨256, 0⟩)).wf .encodable = false := by decide
theorem test_wf_slot :
    (Instr.regLoad 0 (w 0) (some ⟨0, 65535⟩)).wf .encodable = true ∧ (Instr.regLoad 0 (w 0) (some ⟨0, 65536⟩)).wf .encodable = false := by
  decide
theorem test_wf_line_elements :
    (Line.aluUpdate 256 .absent .absent .absent .absent .absent .absent .absent .absent).wf .encodable = false ∧
    (Line.bitUpdate 256 .absent .absent).wf .encodable = false ∧ (Line.regUpdate 256 .absent .absent none).wf .encodable = false ∧
    (Line.bitTick 256).wf .encodable = false ∧ (Line.regTick 256).wf .encodable = false ∧
    (Line.regUpdate 0 .absent .absent (some ⟨0, 65536⟩)).wf .encodable = false := by decide
theorem test_wf_reference :
    (Line.notGate (.src (.out 65535 .out))).wf .encodable = true ∧ (Line.notGate (.src (.out 65536 .out))).wf .encodable = false ∧
    (Line.notGate (.src (.bitOf 65536 0))).wf .encodable = false := by decide
theorem test_wf_bit_index :
    (Line.notGate (.src (.bitOf 0 15))).wf .encodable = true ∧ (Line.notGate (.src (.bitOf 0 16))).wf .encodable = false := by decide
theorem test_wf_bundle_length :
    (Line.not16 (.bundle (List.replicate 16 (.sig (.bit true))))).wf .encodable = true ∧
    (Line.not16 (.bundle (List.replicate 15 (.sig (.bit true))))).wf .encodable = false := by decide
theorem test_wf_bundle_lane :
    (Line.not16 (.bundle (.bitOf 0 16 :: List.replicate 15 (.sig (.bit true))))).wf .encodable = false := by decide

/-- 00_scope.md R8: what is well formed depends on the circuit, here on each of its four numbers. -/
theorem test_wf_of_a_circuit :
    (Instr.regTick 1).wf small.circuit = true ∧ (Instr.regTick 2).wf small.circuit = false ∧
    (Instr.bitTick 1).wf small.circuit = true ∧ (Instr.bitTick 2).wf small.circuit = false ∧
    (Instr.aluOne 1 none none).wf small.circuit = true ∧ (Instr.aluOne 2 none none).wf small.circuit = false ∧
    (Instr.regHold 1 (w 0) (some ⟨255, 3⟩)).wf small.circuit = true ∧
    (Instr.regHold 1 (w 0) (some ⟨255, 4⟩)).wf small.circuit = false ∧
    (Line.regUpdate 1 .absent .absent (some ⟨255, 4⟩)).wf small.circuit = false := by decide

/-! ### Words written out decode to what they stand for -/

/-- 30_encoding.md R71, R76, R79: words 0 to 15, bit by bit in the order zx nx zy ny f no. -/
theorem test_decode_control_words_0 :
    [(0b000000, Instr.aluAndxy), (0b000001, Instr.aluC000001), (0b000010, Instr.aluAdd), (0b000011, Instr.aluC000011),
     (0b000100, Instr.aluC000100), (0b000101, Instr.aluC000101), (0b000110, Instr.aluC000110), (0b000111, Instr.aluSubyx),
     (0b001000, Instr.aluC001000), (0b001001, Instr.aluC001001), (0b001010, Instr.aluC001010), (0b001011, Instr.aluC001011),
     (0b001100, Instr.aluX), (0b001101, Instr.aluNotx), (0b001110, Instr.aluDecx), (0b001111, Instr.aluNegx)].all
      (fun p => decide (decodeTableWord 8 p.1 = some (p.2 0 (some (.word 0#16)) (some (.word 0#16))))) = true := by
  decide

/-- 30_encoding.md R71, R76, R79: words 16 to 31, bit by bit in the order zx nx zy ny f no. -/
theorem test_decode_control_words_1 :
    [(0b010000, Instr.aluC010000), (0b010001, Instr.aluC010001), (0b010010, Instr.aluC010010), (0b010011, Instr.aluSubxy),
     (0b010100, Instr.aluC010100), (0b010101, Instr.aluOrxy), (0b010110, Instr.aluC010110), (0b010111, Instr.aluC010111),
     (0b011000, Instr.aluC011000), (0b011001, Instr.aluC011001), (0b011010, Instr.aluC011010), (0b011011, Instr.aluC011011),
     (0b011100, Instr.aluC011100), (0b011101, Instr.aluC011101), (0b011110, Instr.aluC011110), (0b011111, Instr.aluIncx)].all
      (fun p => decide (decodeTableWord 8 p.1 = some (p.2 0 (some (.word 0#16)) (some (.word 0#16))))) = true := by
  decide

/-- 30_encoding.md R71, R76, R79: words 32 to 47, bit by bit in the order zx nx zy ny f no. -/
theorem test_decode_control_words_2 :
    [(0b100000, Instr.aluC100000), (0b100001, Instr.aluC100001), (0b100010, Instr.aluC100010), (0b100011, Instr.aluC100011),
     (0b100100, Instr.aluC100100), (0b100101, Instr.aluC100101), (0b100110, Instr.aluC100110), (0b100111, Instr.aluC100111),
     (0b101000, Instr.aluC101000), (0b101001, Instr.aluC101001), (0b101010, Instr.aluZero), (0b101011, Instr.aluC101011),
     (0b101100, Instr.aluC101100), (0b101101, Instr.aluC101101), (0b101110, Instr.aluC101110), (0b101111, Instr.aluC101111)].all
      (fun p => decide (decodeTableWord 8 p.1 = some (p.2 0 (some (.word 0#16)) (some (.word 0#16))))) = true := by
  decide

/-- 30_encoding.md R71, R76, R79: words 48 to 63, bit by bit in the order zx nx zy ny f no. -/
theorem test_decode_control_words_3 :
    [(0b110000, Instr.aluY), (0b110001, Instr.aluNoty), (0b110010, Instr.aluDecy), (0b110011, Instr.aluNegy),
     (0b110100, Instr.aluC110100), (0b110101, Instr.aluC110101), (0b110110, Instr.aluC110110), (0b110111, Instr.aluIncy),
     (0b111000, Instr.aluC111000), (0b111001, Instr.aluC111001), (0b111010, Instr.aluNeg1), (0b111011, Instr.aluC111011),
     (0b111100, Instr.aluC111100), (0b111101, Instr.aluC111101), (0b111110, Instr.aluC111110), (0b111111, Instr.aluOne)].all
      (fun p => decide (decodeTableWord 8 p.1 = some (p.2 0 (some (.word 0#16)) (some (.word 0#16))))) = true := by
  decide

/-- R72: `loadEnable` is the control bit of Bit.Update and Register.Update; element 1, then the Signal, then the
forwarding pair (log 5). -/
theorem test_decode_load_words :
    decodeLine [0b01000000#8, 1#8, 1#8, 1#8, 0#8, 0#8] = .ok ((Instr.bitHold 1 b1).toLine, []) ∧
    decodeLine [0b01000001#8, 1#8, 1#8, 0#8, 0#8, 0#8] = .ok ((Instr.bitLoad 1 b0).toLine, []) ∧
    decodeLine [0b01000010#8, 1#8, 0#8, 0#8, 0x34#8, 0x12#8, 0#8, 0#8, 0#8, 0#8] =
      .ok ((Instr.regHold 1 (w 0x1234) none).toLine, []) ∧
    decodeLine [0b01000011#8, 1#8, 0#8, 0#8, 0x34#8, 0x12#8, 1#8, 7#8, 0x03#8, 0x00#8] =
      .ok ((Instr.regLoad 1 (w 0x1234) (some ⟨7, 3⟩)).toLine, []) := by decide

/-- R73: the PORT rows, which have no control bits (first bytes of log 5). -/
theorem test_decode_port_words :
    decodeLine [71#8, 255#8] = .ok ((Instr.bitTick 255).toLine, []) ∧
    decodeLine [72#8, 255#8] = .ok ((Instr.regTick 255).toLine, []) ∧
    decodeLine [74#8, 2#8, 0#8, 0#8, 0#8] = .ok ((Instr.notGate inv).toLine, []) ∧
    decodeLine [75#8, 1#8, 1#8, 0#8, 0#8, 1#8, 0#8, 0#8, 0#8] = .ok ((Instr.andGate b1 b0).toLine, []) ∧
    decodeLine [76#8, 1#8, 0#8, 0#8, 0#8, 5#8, 0#8, 0#8, 0#8] = .ok ((Instr.orGate b0 none).toLine, []) ∧
    decodeLine [77#8, 1#8, 1#8, 0#8, 0#8, 1#8, 0#8, 0#8, 0#8, 1#8, 1#8, 0#8, 0#8] =
      .ok ((Instr.muxGate b1 b0 b1).toLine, []) ∧
    decodeLine [78#8, 0#8, 0#8, 0xCD#8, 0xAB#8] = .ok ((Instr.not16 (w 0xABCD)).toLine, []) ∧
    decodeLine [79#8, 0#8, 0#8, 0xCD#8, 0xAB#8, 0#8, 0#8, 0#8, 0x80#8] =
      .ok ((Instr.and16 (w 0xABCD) (w 0x8000)).toLine, []) ∧
    decodeLine [80#8, 0#8, 0#8, 0xCD#8, 0xAB#8, 0#8, 0#8, 0#8, 0x80#8, 1#8, 1#8, 0#8, 0#8] =
      .ok ((Instr.mux16 (w 0xABCD) (w 0x8000) b1).toLine, []) ∧
    decodeLine [81#8, 0#8, 0#8, 0xCD#8, 0xAB#8, 0#8, 0#8, 0#8, 0x80#8] =
      .ok ((Instr.add16 (w 0xABCD) (w 0x8000)).toLine, []) := by decide
theorem test_decode_or8way_word :
    decodeLine [82#8, 1#8, 0#8, 0#8, 0#8, 1#8, 1#8, 0#8, 0#8, 1#8, 0#8, 0#8, 0#8, 1#8, 0#8, 0#8, 0#8, 1#8, 0#8, 0#8,
      0#8, 1#8, 0#8, 0#8, 0#8, 1#8, 0#8, 0#8, 0#8, 1#8, 1#8, 0#8, 0#8] =
      .ok ((Instr.or8way b0 b1 b0 b0 b0 b0 b0 b1).toLine, []) := by decide

/-- R80: computed `loadEnable`, an option list with unnamed ports, `name.zr`, `name.out[i]`, and `TICK`. -/
theorem test_decode_computed_forms :
    decodeLine [69#8, 1#8, 4#8, 15#8, 2#8, 1#8, 3#8, 1#8, 0#8, 0#8, 0#8, 0#8, 0#8, 0#8] =
      .ok (.regUpdate 1 (.src (.bitOf 258 15)) (.src (.out 0 .zr)) none, []) ∧
    decodeLine [68#8, 1#8, 5#8, 0#8, 0#8, 0#8, 3#8, 2#8, 0#8, 0#8] =
      .ok (.bitUpdate 1 .absent (.src (.out 0 .ng)), []) ∧
    decodeLine [70#8, 1#8, 0#8, 0#8, 1#8, 0#8, 5#8, 0#8, 0#8, 0#8, 5#8, 0#8, 0#8, 0#8, 5#8, 0#8, 0#8, 0#8, 5#8, 0#8,
      0#8, 0#8, 5#8, 0#8, 0#8, 0#8, 5#8, 0#8, 0#8, 0#8, 1#8, 1#8, 0#8, 0#8] =
      .ok (.aluUpdate 1 (.src (.sig (.word 1#16))) .absent .absent .absent .absent .absent .absent (.bit true), []) ∧
    decodeLine [73#8, 0xAA#8] = .ok (.tick, [0xAA#8]) := by decide

/-- Bytes that are no line are rejected by name. -/
theorem test_decode_rejects :
    decodeLine [] = .error .truncated ∧ decodeLine [78#8, 0#8, 0#8] = .error .truncated ∧
    decodeLine [83#8] = .error (.badSelector 83#8) ∧ decodeLine [255#8] = .error (.badSelector 255#8) ∧
    decodeLine [74#8, 7#8, 0#8, 0#8, 0#8] = .error (.badTag 7#8) ∧
    decodeLine [74#8, 1#8, 2#8, 0#8, 0#8] = .error .reservedBits ∧
    decodeLine [74#8, 3#8, 3#8, 0#8, 0#8] = .error .reservedBits ∧
    decodeLine [66#8, 1#8, 0#8, 0#8, 0#8, 0#8, 2#8, 0#8, 0#8, 0#8] = .error .reservedBits ∧
    decodeLine [74#8, 4#8, 16#8, 0#8, 0#8] = .error .notWellFormed := by decide

/-! ### Gates: 95_test_vectors.md part 2, sections 1 and 2 -/

theorem test_not_gate : returned (.notGate b0) = some (.bit true) ∧ raised (.notGate (w 1)) = some (.invalidWidth .a) := by
  decide
theorem test_and_gate :
    returned (.andGate b1 b0) = some (.bit false) ∧ raised (.andGate inv (w 0xFFFF)) = some (.uninitializedSignal .a) := by
  decide
theorem test_and_gate_second_port :
    raised (.andGate b0 inv) = some (.uninitializedSignal .b) ∧ raised (.andGate b1 (w 0xFFFF)) = some (.invalidWidth .b) ∧
    raised (.andGate b1 none) = some (.uninitializedSignal .b) := by decide
theorem test_or_gate :
    returned (.orGate b0 b1) = some (.bit true) ∧ raised (.orGate b1 inv) = some (.uninitializedSignal .b) := by decide
theorem test_mux_gate :
    returned (.muxGate b1 b0 b0) = some (.bit true) ∧ returned (.muxGate b1 b0 b1) = some (.bit false) := by decide
theorem test_mux_gate_raises :
    raised (.muxGate inv b1 b1) = some (.uninitializedSignal .a) ∧
    raised (.muxGate b1 b1 (w 1)) = some (.invalidWidth .sel) := by decide
theorem test_not16 : returned (.not16 (w 0x1234)) = some (.word 0xEDCB#16) ∧ raised (.not16 b1) = some (.invalidWidth .a) := by
  decide
theorem test_and16 : returned (.and16 (w 0x1234) (w 0xABCD)) = some (.word 0x0204#16) ∧
    raised (.and16 (w 0x1234) inv) = some (.uninitializedSignal .b) := by decide
theorem test_mux16 : returned (.mux16 (w 0x1234) (w 0xABCD) b0) = some (.word 0x1234#16) ∧
    returned (.mux16 (w 0x1234) (w 0xABCD) b1) = some (.word 0xABCD#16) := by decide
theorem test_mux16_raises : raised (.mux16 (w 0x1234) (w 0xABCD) (w 1)) = some (.invalidWidth .sel) ∧
    raised (.mux16 inv (w 0) b1) = some (.uninitializedSignal .a) := by decide
theorem test_add16_ripples : returned (.add16 (w 0x00FF) (w 1)) = some (.word 0x0100#16) ∧
    returned (.add16 (w 0x1234) (w 0xABCD)) = some (.word 0xBE01#16) := by decide
theorem test_add16_wraps : returned (.add16 (w 0xFFFF) (w 1)) = some (.word 0x0000#16) ∧
    returned (.add16 (w 0x8000) (w 0xFFFF)) = some (.word 0x7FFF#16) := by decide
theorem test_or8way : returned (.or8way b0 b0 b0 b0 b0 b0 b0 b0) = some (.bit false) ∧
    returned (.or8way b0 b0 b0 b0 b0 b0 b0 b1) = some (.bit true) := by decide
theorem test_or8way_raises : raised (.or8way b1 b0 b0 b0 b0 inv b0 b0) = some (.uninitializedSignal .in5) := by decide

/-! ### Bits and Registers: part 2, sections 3 and 4 -/

/-- Section 3, step 1 with `cur` 0 and step 8's hold: what is returned and what is staged. -/
theorem test_bit_load :
    (nextOf (exec (.bitLoad 1 b0) small)).map (fun t => (t.outs.head?, t.bits[1]?)) =
      some (some (.bit true), some ⟨true, false⟩) := by decide
theorem test_bit_hold :
    (nextOf (exec (.bitHold 0 b1) small)).map (fun t => (t.outs.head?, t.bits[0]?)) =
      some (some (.bit false), some ⟨false, false⟩) ∧
    raised (.bitHold 1 inv) = some (.uninitializedSignal .input) := by decide
theorem test_bit_tick :
    (nextOf (exec (.bitTick 0) small)).map (fun t => (t.outs.head?, t.bits[0]?)) =
      some (some .nothing, some ⟨true, true⟩) := by decide
/-- Section 4, steps 2 and 13. -/
theorem test_reg_hold :
    (nextOf (exec (.regHold 0 (w 0xFFFF) none) small)).map (fun t => (t.outs.head?, t.regs[0]?)) =
      some (some (.word 0x00FF#16), some ⟨0x00FF#16, 0x00FF#16⟩) ∧
    raised (.regHold 0 inv none) = some (.uninitializedSignal .word) := by decide
/-- Section 4, steps 5 and 9: a second load stages over the first, and the word forwarded is the one returned. -/
theorem test_reg_load :
    (nextOf (exec (.regLoad 0 (w 0x2222) (some ⟨7, 3⟩)) small)).map (fun t => (t.outs.head?, t.regs[0]?, t.events)) =
      some (some (.word 0x00FF#16), some ⟨0x00FF#16, 0x2222#16⟩, [⟨0, 7, 3, 0x00FF#16⟩]) := by decide
/-- A slot that is not below SLOTS is refused by name, before the ports are checked (00_scope.md R8, 30_encoding.md
R80). -/
theorem test_reg_slot :
    refusalOf (exec (.regLoad 0 b1 (some ⟨7, 4⟩)) small) = some .noSuchSlot ∧
    refusalOf (runLine (regLine 0 (w 1) inv (some ⟨7, 4⟩)) small) = some .noSuchSlot := by decide
/-- Section 4, steps 11, 12 and 14. -/
theorem test_reg_raises :
    raised (.regLoad 0 b1 none) = some (.invalidWidth .word) ∧
    faultOf (runLine (regLine 0 (w 1) inv none) small) = some (.uninitializedSignal .loadEnable) ∧
    faultOf (runLine (regLine 0 inv (w 1) none) small) = some (.uninitializedSignal .word) := by decide
theorem test_reg_tick :
    (nextOf (exec (.regTick 0) small)).map (fun t => (t.outs.head?, t.regs[0]?)) =
      some (some .nothing, some ⟨0x1234#16, 0x1234#16⟩) := by decide
/-- T7: REG word 0xA5A5, three orders of the lanes. -/
theorem test_lane_orders :
    let reply := fun i => (i, (0xA5A5#16 : Word).getLsbD i)
    collect ((List.range 16).map reply) = .ok 0xA5A5#16 ∧ collect ((List.range 16).reverse.map reply) = .ok 0xA5A5#16 ∧
    collect ([7, 3, 12, 0, 15, 1, 9, 4, 14, 2, 8, 5, 13, 6, 11, 10].map reply) = .ok 0xA5A5#16 := by decide

/-! ### The ALU: R179 and part 1 -/

/-- R179, rows 0 to 15, at (0x1234, 0xABCD). -/
theorem test_alu_words_0_a :
    [(0b000000#6, 0x0204#16, false, false), (0b000001#6, 0xFDFB#16, false, true),
     (0b000010#6, 0xBE01#16, false, true), (0b000011#6, 0x41FE#16, false, false),
     (0b000100#6, 0x1030#16, false, false), (0b000101#6, 0xEFCF#16, false, true),
     (0b000110#6, 0x6666#16, false, false), (0b000111#6, 0x9999#16, false, true),
     (0b001000#6, 0x0000#16, true, false), (0b001001#6, 0xFFFF#16, false, true),
     (0b001010#6, 0x1234#16, false, false), (0b001011#6, 0xEDCB#16, false, true),
     (0b001100#6, 0x1234#16, false, false), (0b001101#6, 0xEDCB#16, false, true),
     (0b001110#6, 0x1233#16, false, false), (0b001111#6, 0xEDCC#16, false, true)].all
      (fun p => decide (outOf (exec (aluOfCtl p.1 0 (some (.word 0x1234#16)) (some (.word 0xABCD#16))) small) =
        some (.alu p.2.1 p.2.2.1 p.2.2.2))) = true := by
  decide

/-- R179, rows 0 to 15, at (0x8000, 0x0001). -/
theorem test_alu_words_0_b :
    [(0b000000#6, 0x0000#16, true, false), (0b000001#6, 0xFFFF#16, false, true),
     (0b000010#6, 0x8001#16, false, true), (0b000011#6, 0x7FFE#16, false, false),
     (0b000100#6, 0x8000#16, false, true), (0b000101#6, 0x7FFF#16, false, false),
     (0b000110#6, 0x7FFE#16, false, false), (0b000111#6, 0x8001#16, false, true),
     (0b001000#6, 0x0000#16, true, false), (0b001001#6, 0xFFFF#16, false, true),
     (0b001010#6, 0x8000#16, false, true), (0b001011#6, 0x7FFF#16, false, false),
     (0b001100#6, 0x8000#16, false, true), (0b001101#6, 0x7FFF#16, false, false),
     (0b001110#6, 0x7FFF#16, false, false), (0b001111#6, 0x8000#16, false, true)].all
      (fun p => decide (outOf (exec (aluOfCtl p.1 0 (some (.word 0x8000#16)) (some (.word 0x0001#16))) small) =
        some (.alu p.2.1 p.2.2.1 p.2.2.2))) = true := by
  decide

/-- R179, rows 16 to 31, at (0x1234, 0xABCD). -/
theorem test_alu_words_1_a :
    [(0b010000#6, 0xA9C9#16, false, true), (0b010001#6, 0x5636#16, false, false),
     (0b010010#6, 0x9998#16, false, true), (0b010011#6, 0x6667#16, false, false),
     (0b010100#6, 0x4402#16, false, false), (0b010101#6, 0xBBFD#16, false, true),
     (0b010110#6, 0x41FD#16, false, false), (0b010111#6, 0xBE02#16, false, true),
     (0b011000#6, 0x0000#16, true, false), (0b011001#6, 0xFFFF#16, false, true),
     (0b011010#6, 0xEDCB#16, false, true), (0b011011#6, 0x1234#16, false, false),
     (0b011100#6, 0xEDCB#16, false, true), (0b011101#6, 0x1234#16, false, false),
     (0b011110#6, 0xEDCA#16, false, true), (0b011111#6, 0x1235#16, false, false)].all
      (fun p => decide (outOf (exec (aluOfCtl p.1 0 (some (.word 0x1234#16)) (some (.word 0xABCD#16))) small) =
        some (.alu p.2.1 p.2.2.1 p.2.2.2))) = true := by
  decide

/-- R179, rows 16 to 31, at (0x8000, 0x0001). -/
theorem test_alu_words_1_b :
    [(0b010000#6, 0x0001#16, false, false), (0b010001#6, 0xFFFE#16, false, true),
     (0b010010#6, 0x8000#16, false, true), (0b010011#6, 0x7FFF#16, false, false),
     (0b010100#6, 0x7FFE#16, false, false), (0b010101#6, 0x8001#16, false, true),
     (0b010110#6, 0x7FFD#16, false, false), (0b010111#6, 0x8002#16, false, true),
     (0b011000#6, 0x0000#16, true, false), (0b011001#6, 0xFFFF#16, false, true),
     (0b011010#6, 0x7FFF#16, false, false), (0b011011#6, 0x8000#16, false, true),
     (0b011100#6, 0x7FFF#16, false, false), (0b011101#6, 0x8000#16, false, true),
     (0b011110#6, 0x7FFE#16, false, false), (0b011111#6, 0x8001#16, false, true)].all
      (fun p => decide (outOf (exec (aluOfCtl p.1 0 (some (.word 0x8000#16)) (some (.word 0x0001#16))) small) =
        some (.alu p.2.1 p.2.2.1 p.2.2.2))) = true := by
  decide

/-- R179, rows 32 to 47, at (0x1234, 0xABCD). -/
theorem test_alu_words_2_a :
    [(0b100000#6, 0x0000#16, true, false), (0b100001#6, 0xFFFF#16, false, true),
     (0b100010#6, 0xABCD#16, false, true), (0b100011#6, 0x5432#16, false, false),
     (0b100100#6, 0x0000#16, true, false), (0b100101#6, 0xFFFF#16, false, true),
     (0b100110#6, 0x5432#16, false, false), (0b100111#6, 0xABCD#16, false, true),
     (0b101000#6, 0x0000#16, true, false), (0b101001#6, 0xFFFF#16, false, true),
     (0b101010#6, 0x0000#16, true, false), (0b101011#6, 0xFFFF#16, false, true),
     (0b101100#6, 0x0000#16, true, false), (0b101101#6, 0xFFFF#16, false, true),
     (0b101110#6, 0xFFFF#16, false, true), (0b101111#6, 0x0000#16, true, false)].all
      (fun p => decide (outOf (exec (aluOfCtl p.1 0 (some (.word 0x1234#16)) (some (.word 0xABCD#16))) small) =
        some (.alu p.2.1 p.2.2.1 p.2.2.2))) = true := by
  decide

/-- R179, rows 32 to 47, at (0x8000, 0x0001). -/
theorem test_alu_words_2_b :
    [(0b100000#6, 0x0000#16, true, false), (0b100001#6, 0xFFFF#16, false, true),
     (0b100010#6, 0x0001#16, false, false), (0b100011#6, 0xFFFE#16, false, true),
     (0b100100#6, 0x0000#16, true, false), (0b100101#6, 0xFFFF#16, false, true),
     (0b100110#6, 0xFFFE#16, false, true), (0b100111#6, 0x0001#16, false, false),
     (0b101000#6, 0x0000#16, true, false), (0b101001#6, 0xFFFF#16, false, true),
     (0b101010#6, 0x0000#16, true, false), (0b101011#6, 0xFFFF#16, false, true),
     (0b101100#6, 0x0000#16, true, false), (0b101101#6, 0xFFFF#16, false, true),
     (0b101110#6, 0xFFFF#16, false, true), (0b101111#6, 0x0000#16, true, false)].all
      (fun p => decide (outOf (exec (aluOfCtl p.1 0 (some (.word 0x8000#16)) (some (.word 0x0001#16))) small) =
        some (.alu p.2.1 p.2.2.1 p.2.2.2))) = true := by
  decide

/-- R179, rows 48 to 63, at (0x1234, 0xABCD). -/
theorem test_alu_words_3_a :
    [(0b110000#6, 0xABCD#16, false, true), (0b110001#6, 0x5432#16, false, false),
     (0b110010#6, 0xABCC#16, false, true), (0b110011#6, 0x5433#16, false, false),
     (0b110100#6, 0x5432#16, false, false), (0b110101#6, 0xABCD#16, false, true),
     (0b110110#6, 0x5431#16, false, false), (0b110111#6, 0xABCE#16, false, true),
     (0b111000#6, 0x0000#16, true, false), (0b111001#6, 0xFFFF#16, false, true),
     (0b111010#6, 0xFFFF#16, false, true), (0b111011#6, 0x0000#16, true, false),
     (0b111100#6, 0xFFFF#16, false, true), (0b111101#6, 0x0000#16, true, false),
     (0b111110#6, 0xFFFE#16, false, true), (0b111111#6, 0x0001#16, false, false)].all
      (fun p => decide (outOf (exec (aluOfCtl p.1 0 (some (.word 0x1234#16)) (some (.word 0xABCD#16))) small) =
        some (.alu p.2.1 p.2.2.1 p.2.2.2))) = true := by
  decide

/-- R179, rows 48 to 63, at (0x8000, 0x0001). -/
theorem test_alu_words_3_b :
    [(0b110000#6, 0x0001#16, false, false), (0b110001#6, 0xFFFE#16, false, true),
     (0b110010#6, 0x0000#16, true, false), (0b110011#6, 0xFFFF#16, false, true),
     (0b110100#6, 0xFFFE#16, false, true), (0b110101#6, 0x0001#16, false, false),
     (0b110110#6, 0xFFFD#16, false, true), (0b110111#6, 0x0002#16, false, false),
     (0b111000#6, 0x0000#16, true, false), (0b111001#6, 0xFFFF#16, false, true),
     (0b111010#6, 0xFFFF#16, false, true), (0b111011#6, 0x0000#16, true, false),
     (0b111100#6, 0xFFFF#16, false, true), (0b111101#6, 0x0000#16, true, false),
     (0b111110#6, 0xFFFE#16, false, true), (0b111111#6, 0x0001#16, false, false)].all
      (fun p => decide (outOf (exec (aluOfCtl p.1 0 (some (.word 0x8000#16)) (some (.word 0x0001#16))) small) =
        some (.alu p.2.1 p.2.2.1 p.2.2.2))) = true := by
  decide

/-- T4 and T5, the source's own two ALU examples. -/
theorem test_alu_source_examples :
    returned (.aluZero 0 (w 0x1234) (w 0xABCD)) = some (.alu 0x0000#16 true false) ∧
    returned (.aluZero 0 (w 0x0000) (w 0x8000)) = some (.alu 0x0000#16 true false) ∧
    returned (.aluAdd 0 (w 0x7FFF) (w 0x0001)) = some (.alu 0x8000#16 false true) := by decide
/-- An ALU that has seen no Update raises on the first port left out (R149, R29); one that has keeps its operands. -/
theorem test_alu_latches :
    raised (.aluAdd 0 (w 1) none) = some (.uninitializedSignal .y) ∧
    returned (.aluSubxy 1 none none) = some (.alu 0x6667#16 false false) := by decide

/-! ### States and operands that meet the hypotheses of the statements, at the ends of their ranges -/

/-- LaneGatesApplyTheOneBitGatePerLane, AdderAgreesWithItsCarryChainTrees, RegisterIsSixteenBits: the outermost lanes. -/
theorem witness_lanes : 0 < 16 ∧ 15 < 16 := by decide

/-- AdderObeysTheIntegerLaws: sums at both ends of the range and one beyond each. -/
theorem witness_integer_laws :
    (-32768 ≤ (0x7FFF#16).toInt + (0x0000#16).toInt ∧ (0x7FFF#16).toInt + (0x0000#16).toInt ≤ 32767) ∧
    (-32768 ≤ (0x8000#16).toInt + (0x0000#16).toInt ∧ (0x8000#16).toInt + (0x0000#16).toInt ≤ 32767) ∧
    32767 < (0x7FFF#16).toInt + (0x0001#16).toInt ∧ (0x8000#16).toInt + (0xFFFF#16).toInt < -32768 := by decide

/-- FirstFailingPortDecidesTheFault: a gate and its ports, with and without a failing one; the elements of reset at both
ends; a port that fails. -/
theorem witness_first_failing_port :
    gatePorts (.or8way b1 b0 b0 b0 b0 inv b0 none) = some [⟨.in0, false, b1⟩, ⟨.in1, false, b0⟩, ⟨.in2, false, b0⟩,
      ⟨.in3, false, b0⟩, ⟨.in4, false, b0⟩, ⟨.in5, false, inv⟩, ⟨.in6, false, b0⟩, ⟨.in7, false, none⟩] ∧
    firstFault [⟨.in5, false, inv⟩, ⟨.in6, false, b0⟩, ⟨.in7, false, none⟩] = some (.uninitializedSignal .in5) ∧
    firstFault [⟨.a, false, b1⟩, ⟨.b, false, b0⟩] = none ∧
    firstFault (regPorts b1 inv) = some (.invalidWidth .word) ∧ firstFault (bitPorts b1 b0) = none ∧
    firstFault (aluPorts Latches.fresh) = some (.uninitializedSignal .x) ∧
    (⟨.sel, false, w 1⟩ : PortCheck).fault = some (.invalidWidth .sel) := by decide

/-- Every statement about an element: Registers, Bits and ALUs 0 and 255 exist after reset. -/
theorem witness_elements_of_reset :
    State.reset.regs[0]? = some ⟨Config.resetCur 0, Config.resetCur 0⟩ ∧
    State.reset.regs[255]? = some ⟨Config.resetCur 255, Config.resetCur 255⟩ ∧
    State.reset.bits[0]? = some ⟨Config.resetBit 0, Config.resetBit 0⟩ ∧
    State.reset.bits[255]? = some ⟨Config.resetBit 255, Config.resetBit 255⟩ ∧
    State.reset.alus[0]? = some Latches.fresh ∧ State.reset.alus[255]? = some Latches.fresh :=
  ⟨rfl, rfl, rfl, rfl, rfl, rfl⟩

/-- BitUpdateReturnsCurrentAndStages, RegisterUpdateReturnsCurrentAndStages, TickCommitsWhatIsStaged,
FirstFailingPortDecidesTheFault, RowsRaiseInPortOrder: the elements of the small circuit, and the last of its slots. -/
theorem witness_elements_of_small :
    small.bits[1]? = some ⟨true, true⟩ ∧ small.bits[0]? = some ⟨false, true⟩ ∧
    small.regs[0]? = some ⟨0x00FF#16, 0x1234#16⟩ ∧ small.regs[1]? = some ⟨0xA5A5#16, 0xA5A5#16⟩ ∧
    small.alus[0]? = some Latches.fresh ∧ slotOk small.slots none = true ∧
    slotOk small.slots (some ⟨255, 3⟩) = true := by decide

/-- MissingLaneReplyIsDeadlock: lane 15 missing, lane 0 missing and lane 15 answered twice, none missing. -/
theorem witness_missing_lane :
    collect ((List.range 15).map fun i => (i, true)) = .error (.deadlock 15) ∧
    collect ((15, true) :: (List.range 15).map fun i => (i + 1, false)) = .error (.deadlock 0) ∧
    (∀ v, (15, v) ∉ (List.range 15).map fun i => (i, true)) ∧
    (∀ lane, lane < 16 → ∃ v, (lane, v) ∈ laneList fun i => i == 0) := by decide

/-- RegisterLawsHold: laws (a) to (d) in a circuit of one Register, law (e) with two different ones, and Ticks and HOLDs
to follow. -/
theorem witness_register_laws :
    (State.construct ⟨1, 0, 0, 0⟩).regs[0]? = some ⟨Config.resetCur 0, Config.resetCur 0⟩ ∧
    small.regs[0]? = some ⟨0x00FF#16, 0x1234#16⟩ ∧ small.regs[1]? = some ⟨0xA5A5#16, 0xA5A5#16⟩ ∧ 0 ≠ 1 ∧
    ∀ i ∈ [Instr.regTick 0, regRow false 0 0xFFFF#16 none, .regTick 0],
      i = .regTick 0 ∨ ∃ v, i = regRow false 0 v none :=
  ⟨rfl, by decide, by decide, by decide, fun i hi => by
    simp only [List.mem_cons, List.not_mem_nil, or_false] at hi
    rcases hi with rfl | rfl | rfl
    · exact .inl rfl
    · exact .inr ⟨_, rfl⟩
    · exact .inl rfl⟩

/-- LaneOrderDoesNotMatter: the replies in reverse. -/
theorem witness_lane_order :
    ((List.range 16).reverse.map fun i => (i, (0xA5A5#16 : Word).getLsbD i)).Perm
      (laneList fun i => (0xA5A5#16 : Word).getLsbD i) :=
  (List.reverse_perm _).map _

/-- OnlyTicksCommit, RepeatedUpdateIsIdempotent, StepKeepsTheCircuit: an Update and a Tick that complete. -/
theorem witness_completing_operations :
    (nextOf (exec (.regLoad 1 (w 1) (some ⟨255, 3⟩)) small)).isSome = true ∧
    isTick (.regLoad 1 (w 1) (some ⟨255, 3⟩)) = false ∧
    (nextOf (exec (.regTick 1) small)).isSome = true ∧ isTick (.regTick 1) = true ∧
    (nextOf (exec (.bitTick 0) small)).isSome = true ∧ isTick (.bitTick 0) = true := by decide

/-- GlobalEdgeIsEveryTickInAnyOrder: the Ticks of the small circuit in reverse. -/
theorem witness_global_edge :
    [Instr.bitTick 1, .bitTick 0, .regTick 1, .regTick 0].Perm
      ((List.range small.regs.length).map Instr.regTick ++ (List.range small.bits.length).map Instr.bitTick) :=
  List.reverse_perm [Instr.regTick 0, .regTick 1, .bitTick 0, .bitTick 1]

/-- ReadsOfAPhaseAreItsSnapshot: a phase that loads what is then read. -/
theorem witness_phase :
    [Instr.regLoad 0 (w 0x5555) none, .bitLoad 0 b1, .aluAdd 0 (w 1) (w 2)].all (fun i => !isTick i) = true ∧
    (nextOf (execAll [.regLoad 0 (w 0x5555) none, .bitLoad 0 b1, .aluAdd 0 (w 1) (w 2)] small)).isSome = true ∧
    small.regs[0]? = some ⟨0x00FF#16, 0x1234#16⟩ ∧ small.bits[0]? = some ⟨false, true⟩ := by decide

/-- What the small circuit comes to after an operation, or itself where that stops. -/
def after (o : Outcome) (s : State) : State := (nextOf o).getD s

/-- StagedWordIsReadAfterTheEdge: another Register is loaded before the edge, and this one again after it. -/
theorem witness_staged_word :
    let s1 := after (exec (.regLoad 0 (w 0x5555) none) small) small
    let s2 := after (execAll [.regLoad 1 (w 0xAAAA) none, .notGate b0] s1) s1
    let s3 := after (runLine .tick s2) s2
    small.regs[0]? = some ⟨0x00FF#16, 0x1234#16⟩ ∧ nextOf (exec (.regLoad 0 (w 0x5555) none) small) = some s1 ∧
    [Instr.regLoad 1 (w 0xAAAA) none, .notGate b0].all (fun i => !isTick i && !updatesReg 0 i) = true ∧
    nextOf (execAll [.regLoad 1 (w 0xAAAA) none, .notGate b0] s1) = some s2 ∧
    nextOf (runLine .tick s2) = some s3 ∧
    [Instr.regLoad 0 (w 0) none].all (fun i => !isTick i) = true ∧
    (nextOf (execAll [.regLoad 0 (w 0) none] s3)).isSome = true := by decide

/-- LastWriteOfACycleWins: Updates of the same element and other operations before the last Update, Updates of another
element and its Tick after it, of a Register (a HOLD cancels a LOAD) and of a Bit (a LOAD after a HOLD). -/
theorem witness_last_write :
    let r1 := after (execAll [.regLoad 0 (w 0x5555) none, .notGate b0, .regTick 1] small) small
    let r2 := after (exec (regRow false 0 0xAAAA#16 (some ⟨0, 3⟩)) r1) r1
    let b1' := after (execAll [.bitHold 0 b0, .bitLoad 0 b0, .regTick 0] small) small
    let b2' := after (exec (bitRow true 0 true) b1') b1'
    [Instr.regLoad 0 (w 0x5555) none, .notGate b0, .regTick 1].all (fun i => !ticksReg 0 i) = true ∧
    nextOf (execAll [.regLoad 0 (w 0x5555) none, .notGate b0, .regTick 1] small) = some r1 ∧
    nextOf (exec (regRow false 0 0xAAAA#16 (some ⟨0, 3⟩)) r1) = some r2 ∧
    [Instr.regLoad 1 (w 1) none, .regTick 1].all (fun i => !ticksReg 0 i && !updatesReg 0 i) = true ∧
    (nextOf (execAll [.regLoad 1 (w 1) none, .regTick 1] r2)).isSome = true ∧
    [Instr.bitHold 0 b0, .bitLoad 0 b0, .regTick 0].all (fun i => !ticksBit 0 i) = true ∧
    nextOf (execAll [.bitHold 0 b0, .bitLoad 0 b0, .regTick 0] small) = some b1' ∧
    nextOf (exec (bitRow true 0 true) b1') = some b2' ∧
    [Instr.bitLoad 1 b0, .bitTick 1].all (fun i => !ticksBit 0 i && !updatesBit 0 i) = true ∧
    (nextOf (execAll [.bitLoad 1 b0, .bitTick 1] b2')).isSome = true := by decide

/-- AluStagesConditionSelectAndNegate: Invalid on a zeroed x, and on a zeroed y beside an x kept in the latches. -/
theorem witness_zeroed_operands :
    raised (.aluZero 0 inv none) = some (.uninitializedSignal .x) ∧
    (small.alus[1]?.map fun l => (none : Option Sig).getD l.x) = some (.word 0x1234#16) ∧
    raised (.aluZero 1 none inv) = some (.uninitializedSignal .y) := by decide

/-- Every statement of the form Computes (the 64 rows): operands supplied to a fresh ALU, operands kept in the latches
of another, and one of each. -/
theorem witness_alu_rows :
    small.alus[0]? = some Latches.fresh ∧
    (w 0x8000).getD Latches.fresh.x = .word 0x8000#16 ∧ (w 0xFFFF).getD Latches.fresh.y = .word 0xFFFF#16 ∧
    (small.alus[1]?.map fun l => ((none : Option Sig).getD l.x, (none : Option Sig).getD l.y)) =
      some (.word 0x1234#16, .word 0xABCD#16) ∧
    (small.alus[1]?.map fun l => ((none : Option Sig).getD l.x, (w 0).getD l.y)) =
      some (.word 0x1234#16, .word 0#16) := by decide

/-- The latches of the second ALU of the small circuit. -/
def kept : AluIn := ⟨0x1234#16, 0xABCD#16, false, false, false, false, true, false⟩

/-- AluUpdateRunsTheFiveStages, NegativeFlagIsTheSignBit: an option list that names one port, one that names none and
still raises, one that names all eight, with wrong widths among them. -/
theorem witness_alu_options :
    small.alus[1]? = some kept.latches ∧
    kept.latches.drive ⟨w 0xFFFF, none, none, none, none, none, none, b1⟩ =
      (⟨0xFFFF#16, 0xABCD#16, false, false, false, false, true, true⟩ : AluIn).latches ∧
    (nextOf (runLine (optsLine 1 ⟨w 0xFFFF, none, none, none, none, none, none, b1⟩) small)).isSome = true ∧
    firstFault (aluPorts (Latches.fresh.drive ⟨w 0xFFFF, none, none, none, none, none, none, b1⟩)) =
      some (.uninitializedSignal .y) ∧
    (⟨some (.word 0x1234#16), some (.word 0xABCD#16), some (.bit false), some (.bit false), some (.bit false),
      some (.bit false), some (.bit true), some (.bit false)⟩ : AluOpts) =
      ⟨some (.word kept.x), some (.word kept.y), some (.bit kept.zx), some (.bit kept.nx), some (.bit kept.zy),
        some (.bit kept.ny), some (.bit kept.f), some (.bit kept.no)⟩ ∧
    Latches.fresh.drive ⟨b1, inv, w 1, b0, b0, b0, b0, inv⟩ =
      ⟨.bit true, .invalid, .word 1#16, .bit false, .bit false, .bit false, .bit false, .invalid⟩ := by decide

/-- FlagsFollowTheOutput: the same latched inputs reached on two ALUs, one supplied and one kept. -/
theorem witness_flags :
    (nextOf (exec (aluOfCtl 0x02#6 1 none none) small)).isSome = true ∧ small.alus[1]? = some kept.latches ∧
    small.alus[0]? = some Latches.fresh ∧
    kept.latches.drive (rowOpts 0x02#6 none none) =
      Latches.fresh.drive (rowOpts 0x02#6 (w 0x1234) (w 0xABCD)) ∧
    (nextOf (exec (aluOfCtl 0x02#6 0 (w 0x1234) (w 0xABCD)) small)).isSome = true := by decide

/-- OutputHasTheClosedForm and AluStagesConditionSelectAndNegate: each pair of `f` and `no`, and of a zeroing flag and a
complementing flag, is the flags of some control word. -/
theorem witness_stage_flags :
    (∀ f no : Bool, ∃ c : Ctl, (AluIn.ofCtl c 1#16 2#16).f = f ∧ (AluIn.ofCtl c 1#16 2#16).no = no) ∧
    (∀ zx nx : Bool, ∃ c : Ctl, (AluIn.ofCtl c 1#16 2#16).zx = zx ∧ (AluIn.ofCtl c 1#16 2#16).nx = nx) ∧
    (∀ zy ny : Bool, ∃ c : Ctl, (AluIn.ofCtl c 1#16 2#16).zy = zy ∧ (AluIn.ofCtl c 1#16 2#16).ny = ny) :=
  ⟨fun f no => ⟨ctlOfFlags false false false false f no, by cases f <;> cases no <;> decide⟩,
    fun zx nx => ⟨ctlOfFlags zx nx false false false false, by cases zx <;> cases nx <;> decide⟩,
    fun zy ny => ⟨ctlOfFlags false false zy ny false false, by cases zy <;> cases ny <;> decide⟩⟩

/-- AliasesCannotBeToldApart: the first and the last row of the table, two words of each. -/
theorem witness_aliases :
    (aliasTable.head?.map fun row => (row.1.contains 0x2A#6, row.1.contains 0x08#6)) = some (true, true) ∧
    (aliasTable.getLast?.map fun row => (row.1.contains 0x31#6, row.1.contains 0x34#6)) = some (true, true) := by decide

/-- CanonicalRowsProduceTheirFlags: operands for the three pairs of flags, of the first word of its list and the last. -/
theorem witness_canonical_flags :
    [aluFn 0x0C#6 0#16 0#16, aluFn 0x0C#6 0x8000#16 0#16, aluFn 0x0C#6 1#16 0#16].map
      (fun out => (flagZr out, flagNg out)) = [(true, false), (false, true), (false, false)] ∧
    [aluFn 0x15#6 0#16 0#16, aluFn 0x15#6 0x8000#16 0#16, aluFn 0x15#6 1#16 0#16].map
      (fun out => (flagZr out, flagNg out)) = [(true, false), (false, true), (false, false)] := by decide

/-- StepKeepsLatchesSettled, ValidLatchesStayValid, StepKeepsTheCircuit: a step that changes latches. -/
theorem witness_step :
    let s := withTrace (encode (.aluC010111 1 (w 7) none) ++ [73#8])
    s.inv = true ∧ (nextOf (step s)).isSome = true ∧ s.alus[1]? = some kept.latches ∧ kept.latches.valid = true ∧
    ((nextOf (step s)).map fun t => (t.alus[1]?, t.todo)) =
      some (some ⟨.word 7#16, .word 0xABCD#16, .bit false, .bit true, .bit false, .bit true, .bit true, .bit true⟩,
        [73#8]) := by decide

/-- ElementsDoNotTouchOneAnother: an operation of each of the four kinds that completes. -/
theorem witness_kinds :
    (nextOf (exec (.or8way b0 b0 b0 b0 b0 b0 b0 b1) small)).isSome = true ∧
    (gatePorts (.or8way b0 b0 b0 b0 b0 b0 b0 b1)).isSome = true ∧
    (nextOf (exec (.aluC111110 1 none none) small)).isSome = true ∧
    Instr.aluC111110 1 none none = aluOfCtl 0x3E#6 1 none none ∧
    (nextOf (exec (.regHold 1 (w 0) none) small)).isSome = true ∧ updatesReg 1 (.regHold 1 (w 0) none) = true ∧
    (nextOf (exec (.bitLoad 1 b0) small)).isSome = true ∧ updatesBit 1 (.bitLoad 1 b0) = true := by decide

/-- ConstructionLeavesResetValues, TickBeforeUpdateChangesNothing: the last elements of the circuit of reset, and of one
with a single Register, Bit and ALU. -/
theorem witness_construction :
    255 < Config.circuit.nreg ∧ 255 < Config.circuit.nbit ∧ 255 < Config.circuit.nalu ∧
    (0 < (⟨1, 1, 1, 1⟩ : Circuit).nreg ∧ 0 < (⟨1, 1, 1, 1⟩ : Circuit).nbit ∧ 0 < (⟨1, 1, 1, 1⟩ : Circuit).nalu) := by
  decide

/-- DecodeOfEncodedLine: a line with every number at its largest, a bundle among them. -/
theorem witness_wf_line :
    (Line.regUpdate 255 (.bundle (List.replicate 16 (.bitOf 65535 15))) (.src (.out 65535 .ng)) (some ⟨255, 65535⟩)).wf .encodable =
      true ∧
    (Line.aluUpdate 255 .absent (.src (.sig .invalid)) .absent (.bit true) .absent .absent .absent (.bit true)).wf .encodable = true := by
  decide

/-- DecodeOfEncodedOperation: operations with every number at its largest. -/
theorem witness_wf_operation :
    (Instr.aluNeg1 255 (w 0xFFFF) inv).wf .encodable = true ∧ (Instr.regLoad 255 (w 0xFFFF) (some ⟨255, 65535⟩)).wf .encodable = true ∧
    (Instr.bitTick 255).wf .encodable = true := by decide

/-- DecodedLinesAreWellFormed: bytes that decode, with bytes after them. -/
theorem witness_decoded : decodeLine [72#8, 255#8, 1#8] = .ok (.regTick 255, [1#8]) := by decide

/-- ControlWordsSelectTheirRows: the last word, and two equal rows. -/
theorem witness_control_words : 63 < 64 ∧ aluOfCtl 0x3F#6 0 none none = aluOfCtl 0x3F#6 0 none none := by decide

/-- StepRunsTheDecodedOperation: a trace of two operations, one of a line that refers back, and a table word. -/
theorem witness_step_runs :
    decodeLine (withTrace (encode (.notGate b1) ++ encode (.regTick 1))).todo =
      .ok ((Instr.notGate b1).toLine, encode (.regTick 1)) ∧
    decodeLine (withTrace [74#8, 3#8, 1#8, 2#8, 0#8]).todo = .ok (.notGate (.src (.out 2 .zr)), []) ∧
    decodeTableWord 8 0b111111 = some (.aluOne 0 (w 0) (w 0)) := by decide

/-- ComputedLoadEnableSelects: a flag and a bit among the outputs, one set and one clear. -/
theorem witness_computed_load :
    (small.outs[2]?.bind fun o => o.port .zr) = some (.bit true) ∧
    (small.outs[2]?.bind fun o => o.port .ng) = some (.bit false) ∧
    (small.outs[1]?.bind fun o => o.port .out) = some (.bit true) := by decide

/-- WiringSplitsAndBundles: outputs by name, a bit of an ALU's word, a bundle of the bits of a word, and bundles whose
sixteenth lane is Invalid or a vector, on a second port. -/
theorem witness_wiring :
    ArgCarries small.outs (.src (.out 0 .out)) (.word 0x8001#16) ∧
    ArgCarries small.outs (.src (.out 2 .zr)) (.bit true) ∧
    ArgCarries small.outs (.src (.bitOf 2 0)) (.bit false) ∧ ArgCarries small.outs (.src (.bitOf 0 15)) (.bit true) ∧
    ArgCarries small.outs (.bundle (List.replicate 16 (.out 2 .zr))) (.word 0xFFFF#16) ∧
    lineArgs (.and16 (.src (.out 0 .out)) (.bundle (List.replicate 15 (.out 1 .out) ++ [.sig .invalid]))) =
      [(.a, .src (.out 0 .out))] ++
        (.b, .bundle (List.replicate 15 (.out 1 .out) ++ [.sig .invalid])) :: [] ∧
    Wired small (.a, .src (.out 0 .out)) ∧
    (∀ bad, List.Forall₂ (SrcCarries small.outs) (List.replicate 15 (.out 1 .out) ++ [.sig bad])
      ((List.replicate 15 true).map Sig.bit ++ bad :: [])) := by
  have ones : ∀ k : Fin 16, (0xFFFF#16 : Word).getLsbD k = true := by decide
  have lane : ∀ i, i < 16 → SrcCarries small.outs (.out 2 .zr) (.bit ((0xFFFF#16 : Word).getLsbD i)) := fun i hi =>
    ones ⟨i, hi⟩ ▸ ⟨.alu 0#16 true false, rfl, rfl⟩
  refine ⟨⟨_, rfl, rfl⟩, ⟨_, rfl, rfl⟩, ⟨_, 0#16, rfl, rfl, rfl⟩, ⟨_, 0x8001#16, rfl, rfl, rfl⟩,
    ⟨_, rfl, rfl, fun i x hx => ?_⟩, rfl, ⟨_, rfl⟩, fun bad => ?_⟩
  · rw [List.eq_of_mem_replicate (List.mem_of_getElem? hx)]
    exact lane i (List.getElem?_eq_some_iff.mp hx).1
  · have fifteen : List.Forall₂ (SrcCarries small.outs) (List.replicate 15 (.out 1 .out))
        ((List.replicate 15 true).map Sig.bit) := by
      refine List.forall₂_iff_get.mpr ⟨rfl, fun i _ _ => ?_⟩
      simp only [List.get_eq_getElem, List.getElem_replicate, List.getElem_map]
      exact ⟨.bit true, rfl, rfl⟩
    exact List.rel_append fifteen (.cons rfl .nil)

/-- IllFormedTracesAreRefused, the trace: no line left, and bytes that are no line. -/
theorem witness_refused_trace :
    small.todo = [] ∧ (withTrace [83#8]).todo = [83#8] ∧ decodeLine [83#8] = .error (.badSelector 83#8) := by decide

/-- IllFormedTracesAreRefused, outputs: the line before the first, a port a gate does not have, any port of a Tick, a bit
of a bit, and one of these in the last lane of a bundle. -/
theorem witness_missing_output :
    ArgMissing small.outs (.src (.out 4 .out)) ∧ ArgMissing small.outs (.src (.out 0 .zr)) ∧
    ArgMissing small.outs (.src (.out 3 .out)) ∧ ArgMissing small.outs (.src (.bitOf 1 0)) ∧
    ArgMissing small.outs (.bundle (List.replicate 15 (.sig (.bit true)) ++ [.bitOf 4 0])) ∧
    lineArgs (.muxGate (.src (.out 1 .out)) (.src (.sig .invalid)) (.src (.out 4 .out))) =
      [(.a, .src (.out 1 .out)), (.b, .src (.sig .invalid))] ++ (.sel, .src (.out 4 .out)) :: [] ∧
    Wired small (.a, .src (.out 1 .out)) ∧ Wired small (.b, .src (.sig .invalid)) := by
  refine ⟨fun o h => ?_, fun o h => ?_, fun o h => ?_, fun o h v => ?_, ⟨.bitOf 4 0, by simp, fun o h => ?_⟩, rfl,
    ⟨_, rfl⟩, ⟨_, rfl⟩⟩
  · cases h
  · cases h; rfl
  · cases h; rfl
  · cases h; intro e; cases e
  · cases h

/-- IllFormedTracesAreRefused, elements and slots: the first number beyond each, lines whose arguments are sound, and an
operation that is refused. -/
theorem witness_missing_element :
    small.regs.length ≤ 2 ∧ small.bits.length ≤ 2 ∧ small.alus.length ≤ 2 ∧ small.slots ≤ 4 ∧ 0 < small.regs.length ∧
    ElementMissing small (.bitUpdate 2 (.src (.out 1 .out)) .absent) ∧
    Wired small (.input, .src (.out 1 .out)) ∧ Wired small (.loadEnable, .absent) ∧ Wired small (.word, .absent) ∧
    refusalOf (exec (.regLoad 2 none none) small) = some .noSuchElement ∧
    refusalOf (exec (.regHold 1 none (some ⟨0, 4⟩)) small) = some .noSuchSlot :=
  ⟨by decide, by decide, by decide, by decide, by decide, Nat.le_refl 2, ⟨_, rfl⟩, ⟨_, rfl⟩, ⟨_, rfl⟩, by decide,
    by decide⟩

end Sys2Proof.Tests
end

section
/-! Proofs about the composite gates (41_composite_gates.md): what a gate does on valid Signals, the lanes of a
sixteen-lane gate's word, the MUX identity of R102 and the lane-wise gates of R103 to R106. -/

namespace Sys2Proof.Machine

/-! ### Gates on valid Signals -/

section
variable (s : State)

/-- What a completed gate returns is the output it appends. -/
@[simp] theorem outOf_next_emit (o : Outputs) : outOf (.next (s.emit o)) = some o := rfl

@[simp] theorem exec_notGate_bit (a : Bool) :
    exec (.notGate (some (.bit a))) s = .next (s.emit (.bit (not1 a))) := rfl

@[simp] theorem exec_andGate_bit (a b : Bool) :
    exec (.andGate (some (.bit a)) (some (.bit b))) s = .next (s.emit (.bit (and1 a b))) := rfl

@[simp] theorem exec_muxGate_bit (a b sel : Bool) :
    exec (.muxGate (some (.bit a)) (some (.bit b)) (some (.bit sel))) s = .next (s.emit (.bit (mux1 a b sel))) := rfl

@[simp] theorem exec_not16_word (a : Word) :
    exec (.not16 (some (.word a))) s = .next (s.emit (.word (not16 a))) := rfl

@[simp] theorem exec_and16_word (a b : Word) :
    exec (.and16 (some (.word a)) (some (.word b))) s = .next (s.emit (.word (and16 a b))) := rfl

@[simp] theorem exec_mux16_word (a b : Word) (sel : Bool) :
    exec (.mux16 (some (.word a)) (some (.word b)) (some (.bit sel))) s = .next (s.emit (.word (mux16 a b sel))) := rfl

end

/-! ### Lanes of the sixteen-lane gates -/

section
variable {i : Nat} (a b : Word)

theorem getLsbD_not16 (hi : i < 16) : (not16 a).getLsbD i = not1 (a.getLsbD i) := by
  simp [not16, hi]

theorem getLsbD_and16 (hi : i < 16) : (and16 a b).getLsbD i = and1 (a.getLsbD i) (b.getLsbD i) := by
  simp [and16, hi]

theorem getLsbD_mux16 (sel : Bool) (hi : i < 16) :
    (mux16 a b sel).getLsbD i = mux1 (a.getLsbD i) (b.getLsbD i) sel := by
  simp [mux16, hi]

end

/-! ### The obligations -/

/-- Settles O4: the words are those of the netlists, whose lanes are the one-bit gates' values. -/
theorem laneGatesApplyTheOneBitGatePerLane : Obligations.LaneGatesApplyTheOneBitGatePerLane := by
  intro s a b sel
  refine ⟨not16 a, and16 a b, mux16 a b sel,
    exec_not16_word s a, exec_and16_word s a b, exec_mux16_word s a b sel, fun i hi => ⟨?_, ?_, ?_⟩⟩
  · rw [exec_notGate_bit, outOf_next_emit, getLsbD_not16 a hi]
  · rw [exec_andGate_bit, outOf_next_emit, getLsbD_and16 a b hi]
  · rw [exec_muxGate_bit, outOf_next_emit, getLsbD_mux16 a b sel hi]

/-- Settles O3: MUX returns its netlist's value, which each select reduces to one input; the closing equations are the
rule's own derivation, of Boolean algebra alone. -/
theorem muxSelectsByItsSelect : Obligations.MuxSelectsByItsSelect := by
  intro s a b
  refine ⟨?_, ?_, ?_, ?_⟩
  · rw [exec_muxGate_bit, outOf_next_emit, mux1_false]
  · rw [exec_muxGate_bit, outOf_next_emit, mux1_true]
  · rw [Bool.and_true, Bool.false_and, Bool.or_false]
  · rw [Bool.and_false, Bool.true_and, Bool.false_or]

end Sys2Proof.Machine
end

section
/-! Proofs about storage (42_storage.md): the rendezvous of a Register's lanes does not see the order of the replies
(R126). -/

namespace Sys2Proof.Machine

/-! ### The join of permuted replies -/

section
variable {replies replies' : List (Nat × Bool)}

/-- A bit of the join is set where some reply sets it, wherever in the list that reply stands. -/
theorem joinLanes_perm (h : replies.Perm replies') : joinLanes replies = joinLanes replies' := by
  apply BitVec.eq_of_getLsbD_eq
  intro i _
  rw [getLsbD_joinLanes, getLsbD_joinLanes, h.any_eq]

/-- Permuted replies leave the same lanes without a reply and join to the same word. -/
theorem collect_perm (h : replies.Perm replies') : collect replies = collect replies' := by
  have hmissing : (fun lane => !replies.any fun reply => reply.1 == lane) =
      fun lane => !replies'.any fun reply => reply.1 == lane := funext fun lane => by rw [h.any_eq]
  rw [collect, collect, hmissing, joinLanes_perm h]

end

/-- The replies of Register.Update join to the committed word, whatever is staged. -/
theorem collect_update_replies (c : RegCell) (word : Word) (load : Bool) :
    collect (laneList fun i => ((c.lane i).update (word.getLsbD i) load).2) = .ok c.cur := by
  simp only [BitCell.update_eq, RegCell.lane, collect_laneList, ofLanes_getLsbD]

/-! ### The obligation -/

/-- Settles O22: the rendezvous is invariant under permutation of its replies, and in lane order the replies of a
Register.Update join to the committed word. -/
theorem laneOrderDoesNotMatter : Obligations.LaneOrderDoesNotMatter := by
  intro c word load f replies
  exact ⟨collect_perm, fun h => (collect_perm h).trans (collect_update_replies c word load)⟩

end Sys2Proof.Machine
end

section
/-! Proofs about the ALU's pipeline (43_alu_pipeline.md): what an ALU's line does on valid latches (R141), and the
negative flag as the sign of the value after stage 4 (R147). -/

namespace Sys2Proof.Machine

/-! ### An ALU's line on valid latches -/

/-- Where the driven latches pass the port checks, the line latches them and returns the outputs of the five stages. -/
theorem runLine_optsLine_of_latches (a : Nat) (o : AluOpts) (s : State) (l : Latches) (p : AluIn)
    (hl : s.alus[a]? = some l) (hp : l.drive o = p.latches) :
    runLine (optsLine a o) s = .next ((s.setAlu a p.latches).emit p.outputs) := by
  rw [runLine_optsLine a o s l hl]
  exact (aluUpdate_next ..).mpr ⟨l, p, hl, hp, rfl⟩

/-! ### The negative flag as a sign -/

theorem flagNg_iff_toInt_neg (out : Word) : flagNg out = true ↔ out.toInt < 0 := by
  rw [flagNg_eq, BitVec.msb_eq_toInt, decide_eq_true_iff]

theorem flagNg_iff_le_toNat (out : Word) : flagNg out = true ↔ 0x8000 ≤ out.toNat := by
  rw [flagNg_eq, BitVec.msb_eq_decide, decide_eq_true_iff]

/-! ### The obligation -/

/-- Settles O40: a completing Update returns the flag of its stage-4 value, which is that value's bit 15 and so its sign
in both readings. -/
theorem negativeFlagIsTheSignBit : Obligations.NegativeFlagIsTheSignBit := by
  intro a o s t l p hl hp hrun
  rw [runLine_optsLine_of_latches a o s l p hl hp] at hrun
  obtain rfl := Host.Outcome.next.inj hrun
  exact ⟨flagZr p.out, flagNg p.out, rfl, rfl, flagNg_iff_toInt_neg p.out, flagNg_iff_le_toNat p.out⟩

end Sys2Proof.Machine
end

section
/-! Proofs about the cycle (70_reset_and_hazards.md): what keeps a committed and a staged value between two edges, what
an edge commits, and that the last Update of a cycle decides it (R242). -/

namespace Sys2Proof.Machine

/-! ### Runs of operations -/

/-- A run of operations is its first operation and then the run of the others. -/
theorem execAll_cons_next (i : Instr) (rest : List Instr) (s t : State) :
    execAll (i :: rest) s = .next t ↔ ∃ u, exec i s = .next u ∧ execAll rest u = .next t := by
  cases h : exec i s <;> simp [execAll, h]

/-- What each operation of a run leaves alone, the run leaves alone. -/
theorem execAll_keeps {α : Type} (f : State → α) {ok : Instr → Bool}
    (keeps : ∀ {i s t}, ok i = true → exec i s = .next t → f t = f s) {is : List Instr} {s t : State}
    (hok : is.all ok = true) (h : execAll is s = .next t) : f t = f s := by
  induction is generalizing s with
  | nil => rw [Host.Outcome.next.inj h]
  | cons i rest ih =>
    obtain ⟨hi, hrest⟩ := Bool.and_eq_true_iff.mp hok
    obtain ⟨u, hu, ht⟩ := (execAll_cons_next ..).mp h
    exact (ih hrest ht).trans (keeps hi hu)

/-! ### A Register between two edges and at the edge -/

section
variable {r : Nat} {s t : State}

/-- Only its own Tick writes a Register's committed word: an Update stages beside it. -/
theorem exec_reg_cur {i : Instr} (ht : ticksReg r i = false) (h : exec i s = .next t) :
    (t.regs[r]?).map RegCell.cur = (s.regs[r]?).map RegCell.cur := by
  cases exec_change h with
  | stageReg q c word load fwd op found =>
    by_cases hq : q = r
    · subst hq; simp [List.getElem?_set_self', found]
    · simp [List.getElem?_set_ne hq]
  | commitReg q c op found =>
    have hq : q ≠ r := by rintro rfl; simp [op, ticksReg] at ht
    simp [List.getElem?_set_ne hq]
  | _ => rfl

theorem execAll_reg_cur {is : List Instr} (hno : is.all (fun i => !ticksReg r i) = true)
    (h : execAll is s = .next t) : (t.regs[r]?).map RegCell.cur = (s.regs[r]?).map RegCell.cur :=
  execAll_keeps (fun s => (s.regs[r]?).map RegCell.cur) (fun hi => exec_reg_cur (by simpa using hi)) hno h

theorem execAll_regs {is : List Instr} (hno : is.all (fun i => !ticksReg r i && !updatesReg r i) = true)
    (h : execAll is s = .next t) : t.regs[r]? = s.regs[r]? := by
  refine execAll_keeps (fun s => s.regs[r]?) (fun hi hrun => ?_) hno h
  simp only [Bool.and_eq_true, Bool.not_eq_true'] at hi
  exact exec_regs hrun r hi.2 hi.1

/-- A completing REG.HOLD or REG.LOAD returns the committed word and stages by its load bit alone, whatever was staged
before (R124). -/
theorem regRow_stages {load : Bool} {word w : Word} {fwd : Option Fwd}
    (hw : (s.regs[r]?).map RegCell.cur = some w) (h : exec (regRow load r word fwd) s = .next t) :
    t.outs.head? = some (.word w) ∧ t.regs[r]? = some ⟨w, if load then word else w⟩ := by
  have hrun : regUpdate r (some (.word word)) (some (.bit load)) fwd s = .next t := by cases load <;> exact h
  obtain ⟨-, c, ww, lv, hc, hword, hload, rfl⟩ := (regUpdate_next ..).mp hrun
  cases hword
  cases hload
  obtain rfl : c.cur = w := by simpa [hc] using hw
  exact ⟨rfl, by simp [List.getElem?_set_self', hc]⟩

/-- A Register's own Tick and TICK alike commit what it has staged (R128, R239). -/
theorem regEdge_commits {c : RegCell} (hc : s.regs[r]? = some c) :
    (∃ t, exec (.regTick r) s = .next t ∧ (t.regs[r]?).map RegCell.cur = some c.pend) ∧
    (∃ t, runLine .tick s = .next t ∧ (t.regs[r]?).map RegCell.cur = some c.pend) :=
  ⟨⟨_, (regTick_next ..).mpr ⟨c, hc, rfl⟩, by simp [List.getElem?_set_self', hc]⟩,
    ⟨s.globalTick, rfl, by simp [hc, RegCell.tick_eq]⟩⟩

end

/-! ### A free-standing Bit between two edges and at the edge -/

section
variable {b : Nat} {s t : State}

/-- Only its own Tick writes a Bit's committed value: an Update stages beside it. -/
theorem exec_bit_cur {i : Instr} (ht : ticksBit b i = false) (h : exec i s = .next t) :
    (t.bits[b]?).map BitCell.cur = (s.bits[b]?).map BitCell.cur := by
  cases exec_change h with
  | stageBit q c input load op found =>
    by_cases hq : q = b
    · subst hq; simp [List.getElem?_set_self', found]
    · simp [List.getElem?_set_ne hq]
  | commitBit q c op found =>
    have hq : q ≠ b := by rintro rfl; simp [op, ticksBit] at ht
    simp [List.getElem?_set_ne hq]
  | stageReg => simp
  | _ => rfl

theorem execAll_bit_cur {is : List Instr} (hno : is.all (fun i => !ticksBit b i) = true)
    (h : execAll is s = .next t) : (t.bits[b]?).map BitCell.cur = (s.bits[b]?).map BitCell.cur :=
  execAll_keeps (fun s => (s.bits[b]?).map BitCell.cur) (fun hi => exec_bit_cur (by simpa using hi)) hno h

theorem execAll_bits {is : List Instr} (hno : is.all (fun i => !ticksBit b i && !updatesBit b i) = true)
    (h : execAll is s = .next t) : t.bits[b]? = s.bits[b]? := by
  refine execAll_keeps (fun s => s.bits[b]?) (fun hi hrun => ?_) hno h
  simp only [Bool.and_eq_true, Bool.not_eq_true'] at hi
  exact exec_bits hrun b hi.2 hi.1

/-- A completing BIT.HOLD or BIT.LOAD returns the committed value and stages by its load bit alone, whatever was staged
before (R120). -/
theorem bitRow_stages {load input v : Bool}
    (hv : (s.bits[b]?).map BitCell.cur = some v) (h : exec (bitRow load b input) s = .next t) :
    t.outs.head? = some (.bit v) ∧ t.bits[b]? = some ⟨v, if load then input else v⟩ := by
  have hrun : bitUpdate b (some (.bit input)) (some (.bit load)) s = .next t := by cases load <;> exact h
  obtain ⟨c, iv, lv, hc, hinput, hload, rfl⟩ := (bitUpdate_next ..).mp hrun
  cases hinput
  cases hload
  obtain rfl : c.cur = v := by simpa [hc] using hv
  exact ⟨rfl, by simp [List.getElem?_set_self', hc]⟩

/-- A Bit's own Tick and TICK alike commit what it has staged (R122, R239). -/
theorem bitEdge_commits {c : BitCell} (hc : s.bits[b]? = some c) :
    (∃ t, exec (.bitTick b) s = .next t ∧ (t.bits[b]?).map BitCell.cur = some c.pend) ∧
    (∃ t, runLine .tick s = .next t ∧ (t.bits[b]?).map BitCell.cur = some c.pend) :=
  ⟨⟨_, (bitTick_next ..).mpr ⟨c, hc, rfl⟩, by simp [List.getElem?_set_self', hc]⟩,
    ⟨s.globalTick, rfl, by simp [hc, BitCell.tick]⟩⟩

end

/-! ### The obligation -/

/-- Settles O21: the operations before the last Update keep the committed value, the last Update returns it and stages
from it and its own inputs alone, the operations after it keep the whole cell, and either edge commits the staged
value. -/
theorem lastWriteOfACycleWins : Obligations.LastWriteOfACycleWins := by
  constructor
  · intro r c last v fwd before after s s1 s2 s3 hc hbefore hrun1 hlast hafter hrun3
    have hcur : (s1.regs[r]?).map RegCell.cur = some c.cur := by rw [execAll_reg_cur hbefore hrun1, hc]; rfl
    obtain ⟨hout, hstaged⟩ := regRow_stages hcur hlast
    exact ⟨hout, regEdge_commits ((execAll_regs hafter hrun3).trans hstaged)⟩
  · intro b c last v before after s s1 s2 s3 hc hbefore hrun1 hlast hafter hrun3
    have hcur : (s1.bits[b]?).map BitCell.cur = some c.cur := by rw [execAll_bit_cur hbefore hrun1, hc]; rfl
    obtain ⟨hout, hstaged⟩ := bitRow_stages hcur hlast
    exact ⟨hout, bitEdge_commits ((execAll_bits hafter hrun3).trans hstaged)⟩

end Sys2Proof.Machine
end

section
/-! Facts that the proofs below share, about every operation and every step: the six forms of an operation with what
each runs, and what a step that completes has done. -/

namespace Sys2Proof.Machine

/-! ### Checks in a row -/

section
variable {ε α β : Type}

@[simp] theorem ok_bind (v : α) (k : α → Except ε β) : (Except.ok v >>= k) = k v := rfl

@[simp] theorem error_bind (e : ε) (k : α → Except ε β) : (Except.error e >>= k) = .error e := rfl

@[simp] theorem pure_eq_ok (v : α) : (pure v : Except ε α) = .ok v := rfl

end

/-! ### The forms of an operation -/

/-- The run is a row of checks and then the recording of one output: what it returns or raises does not depend on the
state. -/
def Settles (run : State → Outcome) : Prop :=
  ∃ result : Except Fault Outputs, ∀ s, run s = check result fun o => .next (s.emit o)

theorem settles_emit (o : Outputs) : Settles fun s => .next (s.emit o) := ⟨.ok o, fun _ => rfl⟩

theorem settles_check {α : Type} {c : Except Fault α} {k : α → State → Outcome} (h : ∀ v, Settles (k v)) :
    Settles fun s => check c fun v => k v s := by
  cases c with
  | error f => exact ⟨.error f, fun _ => rfl⟩
  | ok v => exact h v

/-- The six forms of an operation: a claim about every operation, with the Signals it is given, is a case for each. -/
inductive Form (i : Instr) : Prop where
  | gate (ports : List PortCheck) (op : gatePorts i = some ports) (run : Settles (exec i))
  | bit (b : Nat) (input : Option Sig) (load : Bool) (op : i = if load then .bitLoad b input else .bitHold b input)
  | reg (r : Nat) (word : Option Sig) (fwd : Option Fwd) (load : Bool)
      (op : i = if load then .regLoad r word fwd else .regHold r word fwd)
  | bitTick (b : Nat) (op : i = .bitTick b)
  | regTick (r : Nat) (op : i = .regTick r)
  | alu (c : Ctl) (a : Nat) (x y : Option Sig) (op : i = aluOfCtl c a x y)

/-- A row of the ALU is known by the control word of its line. -/
theorem form_of_aluLine {c : Ctl} {a : Nat} {x y : Option Sig} {i : Instr} (_ : i.toLine = aluLine c a x y)
    (op : i = aluOfCtl c a x y) : Form i :=
  .alu c a x y op

theorem form (i : Instr) : Form i := by
  cases i with
  | bitHold b input => exact .bit b input false rfl
  | bitLoad b input => exact .bit b input true rfl
  | regHold r word fwd => exact .reg r word fwd false rfl
  | regLoad r word fwd => exact .reg r word fwd true rfl
  | bitTick b => exact .bitTick b rfl
  | regTick r => exact .regTick r rfl
  | notGate a => exact .gate _ rfl (settles_check fun _ => settles_emit _)
  | andGate a b => exact .gate _ rfl (settles_check fun _ => settles_check fun _ => settles_emit _)
  | orGate a b => exact .gate _ rfl (settles_check fun _ => settles_check fun _ => settles_emit _)
  | muxGate a b sel =>
    exact .gate _ rfl (settles_check fun _ => settles_check fun _ => settles_check fun _ => settles_emit _)
  | not16 a => exact .gate _ rfl (settles_check fun _ => settles_emit _)
  | and16 a b => exact .gate _ rfl (settles_check fun _ => settles_check fun _ => settles_emit _)
  | mux16 a b sel =>
    exact .gate _ rfl (settles_check fun _ => settles_check fun _ => settles_check fun _ => settles_emit _)
  | add16 a b => exact .gate _ rfl (settles_check fun _ => settles_check fun _ => settles_emit _)
  | or8way i0 i1 i2 i3 i4 i5 i6 i7 =>
    exact .gate _ rfl (settles_check fun _ => settles_check fun _ => settles_check fun _ => settles_check fun _ =>
      settles_check fun _ => settles_check fun _ => settles_check fun _ => settles_check fun _ => settles_emit _)
  | _ => exact form_of_aluLine rfl rfl

/-- BIT.HOLD and BIT.LOAD are the Bit's Update under their load bit. -/
theorem exec_bit (b : Nat) (input : Option Sig) (load : Bool) (s : State) :
    exec (if load then .bitLoad b input else .bitHold b input) s = bitUpdate b input (some (.bit load)) s := by
  cases load <;> rfl

/-- REG.HOLD and REG.LOAD are the Register's Update under their load bit. -/
theorem exec_reg (r : Nat) (word : Option Sig) (fwd : Option Fwd) (load : Bool) (s : State) :
    exec (if load then .regLoad r word fwd else .regHold r word fwd) s =
      regUpdate r word (some (.bit load)) fwd s := by
  cases load <;> rfl

/-- A gate's run is a row of checks and then one output. -/
theorem settles_of_gatePorts {i : Instr} (h : (gatePorts i).isSome = true) : Settles (exec i) := by
  cases form i with
  | gate ports op run => exact run
  | bit b input load op => cases load <;> subst op <;> cases h
  | reg r word fwd load op => cases load <;> subst op <;> cases h
  | bitTick b op => subst op; cases h
  | regTick r op => subst op; cases h
  | alu c a x y op =>
    obtain ⟨⟨n, hn⟩⟩ := c
    have hlt : n < 64 := hn
    interval_cases n <;> subst op <;> cases h

/-- An Update of Register `r` runs Register.Update under some load bit. -/
theorem exec_of_updatesReg {r : Nat} {i : Instr} (h : updatesReg r i = true) :
    ∃ word load fwd, exec i = regUpdate r word (some (.bit load)) fwd := by
  unfold updatesReg at h
  split at h
  · obtain rfl := beq_iff_eq.mp h
    exact ⟨_, false, _, rfl⟩
  · obtain rfl := beq_iff_eq.mp h
    exact ⟨_, true, _, rfl⟩
  · cases h

/-- An Update of Bit `b` runs Bit.Update under some load bit. -/
theorem exec_of_updatesBit {b : Nat} {i : Instr} (h : updatesBit b i = true) :
    ∃ input load, exec i = bitUpdate b input (some (.bit load)) := by
  unfold updatesBit at h
  split at h
  · obtain rfl := beq_iff_eq.mp h
    exact ⟨_, false, rfl⟩
  · obtain rfl := beq_iff_eq.mp h
    exact ⟨_, true, rfl⟩
  · cases h

/-- All that a row of the ALU can do. -/
theorem exec_aluOfCtl_next (c : Ctl) (a : Nat) (x y : Option Sig) (s t : State) :
    exec (aluOfCtl c a x y) s = .next t ↔ ∃ (l : Latches) (p : AluIn), s.alus[a]? = some l ∧
      l.drive (rowOpts c x y) = p.latches ∧ t = (s.setAlu a p.latches).emit p.outputs := by
  rw [exec_aluOfCtl]
  exact aluUpdate_next ..

/-! ### Steps -/

/-- When the trace's bytes read as a line, the step is that line at the state with the line taken off. -/
theorem step_of_decode {s : State} {l : Line} {rest : List Byte} (h : decodeLine s.todo = .ok (l, rest)) :
    step s = runLine l { s with todo := rest } := by
  cases htodo : s.todo with
  | nil => rw [htodo] at h; cases h
  | cons b bytes =>
    rw [htodo] at h
    simp only [step, fetch, htodo, h]

/-- A step that completes or faults has read a line. -/
theorem step_cases (s : State) :
    (∃ l rest, decodeLine s.todo = .ok (l, rest) ∧ step s = runLine l { s with todo := rest }) ∨
      ∃ why, step s = .refused why := by
  cases h : decodeLine s.todo with
  | ok read => exact .inl ⟨read.1, read.2, rfl, step_of_decode h⟩
  | error e =>
    refine .inr ?_
    cases htodo : s.todo with
    | nil => exact ⟨.endOfTrace, by simp only [step, fetch, htodo]⟩
    | cons b bytes =>
      rw [htodo] at h
      exact ⟨.illFormed e, by simp only [step, fetch, htodo, h]⟩

/-- A line that completes has run one operation, or has been the global edge. -/
theorem runLine_next {l : Line} {s t : State} (h : runLine l s = .next t) :
    t = s.globalTick ∨ ∃ i, exec i s = .next t := by
  unfold runLine at h
  split at h
  · exact .inr ⟨_, h⟩
  · exact .inl (Host.Outcome.next.inj h).symm
  · cases h
  · cases h

/-- A step that completes has read a line, and with the line taken off has run one operation or the global edge. -/
theorem step_next {s t : State} (h : step s = .next t) :
    ∃ l rest, decodeLine s.todo = .ok (l, rest) ∧
      (t = State.globalTick { s with todo := rest } ∨ ∃ i, exec i { s with todo := rest } = .next t) := by
  obtain ⟨l, rest, hread, hrun⟩ | ⟨why, hwhy⟩ := step_cases s
  · exact ⟨l, rest, hread, runLine_next (hrun ▸ h)⟩
  · rw [hwhy] at h; cases h

end Sys2Proof.Machine
end

section
/-! Proofs about the encoding of trace lines (30_encoding.md): every line reads back from its bytes, an operation's line
is that operation, and a reader consumes what it reads. -/

namespace Sys2Proof

/-! ### Reading back each format -/

section
variable (rest : List Byte)

theorem readGate1_encode (mk : Arg → Line) {a : Arg} (ha : a.wf = true) :
    readGate1 mk (encodeArg a ++ rest) = .ok (mk a, rest) := by
  simp [readGate1, readArg_encodeArg a ha]

theorem readGate2_encode (mk : Arg → Arg → Line) {a b : Arg} (ha : a.wf = true) (hb : b.wf = true) :
    readGate2 mk (encodeArg a ++ encodeArg b ++ rest) = .ok (mk a b, rest) := by
  simp [readGate2, readArg_encodeArg a ha, readArg_encodeArg b hb]

theorem readGate3_encode (mk : Arg → Arg → Arg → Line) {a b sel : Arg} (ha : a.wf = true) (hb : b.wf = true)
    (hsel : sel.wf = true) :
    readGate3 mk (encodeArg a ++ encodeArg b ++ encodeArg sel ++ rest) = .ok (mk a b sel, rest) := by
  simp [readGate3, readArg_encodeArg a ha, readArg_encodeArg b hb, readArg_encodeArg sel hsel]

theorem readTick_encode (mk : Nat → Line) {n : Nat} (hn : n < 256) :
    readTick mk (encodeElement n :: rest) = .ok (mk n, rest) := by
  simp [readTick, readElement_encode n hn]

/-- An argument whose bit is written out is that bit's argument. -/
theorem literalBit_eq_some {arg : Arg} {b : Bool} (h : arg.literalBit = some b) : arg = .bit b := by
  unfold Arg.literalBit at h
  split at h
  · cases h; rfl
  · cases h

/-- Six arguments that write a control word out are that word's flags. -/
theorem literalCtl_eq_some {zx nx zy ny f no : Arg} {c : Ctl} (h : literalCtl zx nx zy ny f no = some c) :
    zx = .bit (ctlFlag c 5) ∧ nx = .bit (ctlFlag c 4) ∧ zy = .bit (ctlFlag c 3) ∧ ny = .bit (ctlFlag c 2) ∧
      f = .bit (ctlFlag c 1) ∧ no = .bit (ctlFlag c 0) := by
  simp only [literalCtl, Option.bind_eq_bind, Option.bind_eq_some_iff, Option.pure_def, Option.some.injEq] at h
  obtain ⟨bzx, hzx, bnx, hnx, bzy, hzy, bny, hny, bf, hf, bno, hno, rfl⟩ := h
  obtain ⟨h5, h4, h3, h2, h1, h0⟩ := Machine.ctlFlag_ctlOfFlags bzx bnx bzy bny bf bno
  rw [h5, h4, h3, h2, h1, h0]
  exact ⟨literalBit_eq_some hzx, literalBit_eq_some hnx, literalBit_eq_some hzy, literalBit_eq_some hny,
    literalBit_eq_some hf, literalBit_eq_some hno⟩

/-- The first byte of an ALUCTL line carries its control word (R71). -/
theorem readBody_ctl (c : Ctl) (bytes : List Byte) : readBody (c.setWidth 8) bytes = readAluRow c bytes := by
  have hlt : (c.setWidth 8 : Byte).toNat < 64 := by
    rw [BitVec.toNat_setWidth]
    have := c.isLt
    omega
  have hback : (c.setWidth 8 : Byte).setWidth 6 = c := BitVec.setWidth_setWidth_of_le c (by decide)
  rw [readBody, if_pos hlt, hback]

theorem readLine_encode_bitUpdate {b : Nat} {input load : Arg}
    (h : (Line.bitUpdate b input load).wf .encodable = true) :
    readLine (encodeLine (.bitUpdate b input load) ++ rest) = .ok (.bitUpdate b input load, rest) := by
  simp only [Line.wf, Bool.and_eq_true] at h
  obtain ⟨⟨hb, hinput⟩, hload⟩ := h
  have hb : b < 256 := of_decide_eq_true hb
  cases hbit : load.literalBit with
  | none =>
    simp only [encodeLine, hbit, List.cons_append, List.append_assoc]
    change readBitFree _ = _
    simp [readBitFree, readElement_encode b hb, readArg_encodeArg _ hinput, readArg_encodeArg _ hload]
  | some l =>
    obtain rfl := literalBit_eq_some hbit
    simp only [encodeLine, Laws.StaticLine.literalBit_bit, List.cons_append]
    have hsel : ∀ bytes, readLine ((if l then 65#8 else 64#8) :: bytes) = readBitRow l bytes := by
      cases l <;> exact fun _ => rfl
    rw [hsel]
    simp [readBitRow, readElement_encode b hb, readArg_encodeArg _ hinput]

theorem readLine_encode_regUpdate {r : Nat} {word load : Arg} {fwd : Option Fwd}
    (h : (Line.regUpdate r word load fwd).wf .encodable = true) :
    readLine (encodeLine (.regUpdate r word load fwd) ++ rest) = .ok (.regUpdate r word load fwd, rest) := by
  simp only [Line.wf, Bool.and_eq_true] at h
  obtain ⟨⟨⟨hr, hword⟩, hload⟩, hfwd⟩ := h
  have hr : r < 256 := of_decide_eq_true hr
  cases hbit : load.literalBit with
  | none =>
    simp only [encodeLine, hbit, List.cons_append, List.append_assoc]
    change readRegFree _ = _
    simp [readRegFree, readElement_encode r hr, readArg_encodeArg _ hword, readArg_encodeArg _ hload,
      readFwd_encodeFwd _ hfwd]
  | some l =>
    obtain rfl := literalBit_eq_some hbit
    simp only [encodeLine, Laws.StaticLine.literalBit_bit, List.cons_append, List.append_assoc]
    have hsel : ∀ bytes, readLine ((if l then 67#8 else 66#8) :: bytes) = readRegRow l bytes := by
      cases l <;> exact fun _ => rfl
    rw [hsel]
    simp [readRegRow, readElement_encode r hr, readArg_encodeArg _ hword, readFwd_encodeFwd _ hfwd]

theorem readLine_encode_aluUpdate {a : Nat} {x y zx nx zy ny f no : Arg}
    (h : (Line.aluUpdate a x y zx nx zy ny f no).wf .encodable = true) :
    readLine (encodeLine (.aluUpdate a x y zx nx zy ny f no) ++ rest) =
      .ok (.aluUpdate a x y zx nx zy ny f no, rest) := by
  simp only [Line.wf, Bool.and_eq_true] at h
  obtain ⟨⟨⟨⟨⟨⟨⟨⟨ha, hx⟩, hy⟩, hzx⟩, hnx⟩, hzy⟩, hny⟩, hf⟩, hno⟩ := h
  have ha : a < 256 := of_decide_eq_true ha
  cases hctl : literalCtl zx nx zy ny f no with
  | none =>
    simp only [encodeLine, hctl, List.cons_append, List.append_assoc]
    change readAluFree _ = _
    simp [readAluFree, readElement_encode a ha, readArg_encodeArg _ hx, readArg_encodeArg _ hy,
      readArg_encodeArg _ hzx, readArg_encodeArg _ hnx, readArg_encodeArg _ hzy, readArg_encodeArg _ hny,
      readArg_encodeArg _ hf, readArg_encodeArg _ hno]
  | some c =>
    obtain ⟨rfl, rfl, rfl, rfl, rfl, rfl⟩ := literalCtl_eq_some hctl
    simp only [encodeLine, hctl, List.cons_append, List.append_assoc, readLine, readBody_ctl]
    simp [readAluRow, readElement_encode a ha, readArg_encodeArg _ hx, readArg_encodeArg _ hy]

/-- A well-formed line reads back from its bytes; a selector byte names its format by evaluation. -/
theorem readLine_encodeLine {l : Line} (h : l.wf .encodable = true) :
    readLine (encodeLine l ++ rest) = .ok (l, rest) := by
  cases l with
  | notGate a => exact readGate1_encode rest .notGate h
  | andGate a b =>
    obtain ⟨ha, hb⟩ := Bool.and_eq_true_iff.mp h
    exact readGate2_encode rest .andGate ha hb
  | orGate a b =>
    obtain ⟨ha, hb⟩ := Bool.and_eq_true_iff.mp h
    exact readGate2_encode rest .orGate ha hb
  | muxGate a b sel =>
    obtain ⟨hab, hsel⟩ := Bool.and_eq_true_iff.mp h
    obtain ⟨ha, hb⟩ := Bool.and_eq_true_iff.mp hab
    exact readGate3_encode rest .muxGate ha hb hsel
  | not16 a => exact readGate1_encode rest .not16 h
  | and16 a b =>
    obtain ⟨ha, hb⟩ := Bool.and_eq_true_iff.mp h
    exact readGate2_encode rest .and16 ha hb
  | mux16 a b sel =>
    obtain ⟨hab, hsel⟩ := Bool.and_eq_true_iff.mp h
    obtain ⟨ha, hb⟩ := Bool.and_eq_true_iff.mp hab
    exact readGate3_encode rest .mux16 ha hb hsel
  | add16 a b =>
    obtain ⟨ha, hb⟩ := Bool.and_eq_true_iff.mp h
    exact readGate2_encode rest .add16 ha hb
  | or8way i0 i1 i2 i3 i4 i5 i6 i7 =>
    simp only [Line.wf, Bool.and_eq_true] at h
    obtain ⟨⟨⟨⟨⟨⟨⟨h0, h1⟩, h2⟩, h3⟩, h4⟩, h5⟩, h6⟩, h7⟩ := h
    change readOr8way _ = _
    simp [readOr8way, readArg_encodeArg _ h0, readArg_encodeArg _ h1, readArg_encodeArg _ h2, readArg_encodeArg _ h3,
      readArg_encodeArg _ h4, readArg_encodeArg _ h5, readArg_encodeArg _ h6, readArg_encodeArg _ h7]
  | bitUpdate b input load => exact readLine_encode_bitUpdate rest h
  | regUpdate r word load fwd => exact readLine_encode_regUpdate rest h
  | aluUpdate a x y zx nx zy ny f no => exact readLine_encode_aluUpdate rest h
  | bitTick b => exact readTick_encode rest .bitTick (of_decide_eq_true h)
  | regTick r => exact readTick_encode rest .regTick (of_decide_eq_true h)
  | tick => rfl

end

/-- Settles O52: the line reads back, and being well formed it is accepted. -/
theorem decodeOfEncodedLine : Obligations.DecodeOfEncodedLine := by
  intro l rest h
  simp [decodeLine, readLine_encodeLine rest h, h]

/-! ### Operations as lines -/

open Machine

/-- A control word's operation is written out by the line of that control word. -/
theorem toLine_aluOfCtl (c : Ctl) (a : Nat) (x y : Option Sig) : (aluOfCtl c a x y).toLine = aluLine c a x y := by
  obtain ⟨⟨n, hn⟩⟩ := c
  have h : n < 64 := hn
  interval_cases n <;> rfl

theorem wf_aluOfCtl (circuit : Circuit) (c : Ctl) (a : Nat) (x y : Option Sig) :
    (aluOfCtl c a x y).wf circuit = decide (a < circuit.nalu) := by
  obtain ⟨⟨n, hn⟩⟩ := c
  have h : n < 64 := hn
  interval_cases n <;> rfl

@[simp] theorem wf_ofSig (g : Option Sig) : (Arg.ofSig g).wf = true := by cases g <;> rfl

@[simp] theorem wf_bit (b : Bool) : (Arg.bit b).wf = true := rfl

/-- Every line that writes an operation out is that operation. -/
theorem static_toLine (i : Instr) : i.toLine.static = some i := by
  cases form i with
  | gate ports op run =>
    cases i <;> simp [gatePorts] at op
    all_goals simp [Instr.toLine, Line.static]
  | bit b input load op => cases load <;> subst op <;> simp [Instr.toLine, Line.static]
  | reg r word fwd load op => cases load <;> subst op <;> simp [Instr.toLine, Line.static]
  | bitTick b op => rw [op]; rfl
  | regTick r op => rw [op]; rfl
  | alu c a x y op => rw [op, toLine_aluOfCtl, Laws.StaticLine.static_aluLine]

/-- The line that writes a well-formed operation out is well formed. -/
theorem wf_toLine {c : Circuit} {i : Instr} (h : i.wf c = true) : i.toLine.wf c = true := by
  cases form i with
  | gate ports op run =>
    cases i <;> simp [gatePorts] at op
    all_goals simp [Instr.toLine, Line.wf]
  | bit b input load op => cases load <;> subst op <;> simpa [Instr.toLine, Line.wf, Instr.wf] using h
  | reg r word fwd load op => cases load <;> subst op <;> simpa [Instr.toLine, Line.wf, Instr.wf] using h
  | bitTick b op => subst op; exact h
  | regTick r op => subst op; exact h
  | alu c a x y op =>
    subst op
    rw [wf_aluOfCtl] at h
    simp [toLine_aluOfCtl, aluLine, Line.wf, h]

/-- Settles O53: the operation's line is well formed, so it reads back, and it is that operation written out. -/
theorem decodeOfEncodedOperation : Obligations.DecodeOfEncodedOperation := fun i rest h =>
  ⟨decodeOfEncodedLine i.toLine rest (wf_toLine h), static_toLine i⟩

end Sys2Proof
end

section
/-! Proofs about decoding (30_encoding.md R80): a reader leaves a suffix of the bytes it is given, so that a line
consumes bytes. -/

namespace Sys2Proof

/-! ### What a reader leaves -/

/-- Whatever is read from the bytes, what remains is a suffix of them. -/
def LeavesSuffix {α : Type} (bytes : List Byte) (read : Except DecodeError (α × List Byte)) : Prop :=
  ∀ v rest, read = .ok (v, rest) → rest <:+ bytes

section
variable {α β : Type} {bytes : List Byte}

theorem leavesSuffix_error (e : DecodeError) : LeavesSuffix bytes (.error e : Except DecodeError (α × List Byte)) :=
  fun _ _ h => by cases h

theorem leavesSuffix_ok (v : α) {rest : List Byte} (h : rest <:+ bytes) : LeavesSuffix bytes (.ok (v, rest)) :=
  fun _ _ e => by cases e; exact h

/-- Reading one thing and then, from what it leaves, another. -/
theorem leavesSuffix_bind {read : Except DecodeError (α × List Byte)}
    {next : α × List Byte → Except DecodeError (β × List Byte)} (first : LeavesSuffix bytes read)
    (after : ∀ v rest, LeavesSuffix rest (next (v, rest))) : LeavesSuffix bytes (read >>= next) := by
  intro v rest h
  obtain ⟨⟨u, mid⟩, hread, hnext⟩ := (Machine.bind_eq_ok ..).mp h
  exact (after u mid v rest hnext).trans (first u mid hread)

theorem leavesSuffix_if {p : Prop} [Decidable p] {read : Except DecodeError (α × List Byte)} {e : DecodeError}
    (h : LeavesSuffix bytes read) : LeavesSuffix bytes (if p then read else .error e) := by
  split
  · exact h
  · exact leavesSuffix_error e

end

theorem suffix_drop4 (tag detail lo hi : Byte) (rest : List Byte) : rest <:+ tag :: detail :: lo :: hi :: rest :=
  ⟨[tag, detail, lo, hi], rfl⟩

/-- A source's four bytes, read, leave the bytes after them. -/
theorem leavesSuffix_src {α : Type} (mk : Src → α) (tag detail lo hi : Byte) (rest : List Byte) :
    LeavesSuffix (tag :: detail :: lo :: hi :: rest) (do let s ← srcOfBytes tag detail lo hi; pure (mk s, rest)) := by
  intro v left h
  obtain ⟨s, -, e⟩ := (Machine.bind_eq_ok ..).mp h
  cases e
  exact suffix_drop4 ..

theorem leavesSuffix_readSrc (bytes : List Byte) : LeavesSuffix bytes (readSrc bytes) := by
  unfold readSrc
  split
  · exact leavesSuffix_src id _ _ _ _ _
  · exact leavesSuffix_error _

theorem leavesSuffix_readSrcs (n : Nat) (bytes : List Byte) : LeavesSuffix bytes (readSrcs n bytes) := by
  induction n generalizing bytes with
  | zero => exact leavesSuffix_ok _ (List.suffix_refl bytes)
  | succ n ih =>
    exact leavesSuffix_bind (leavesSuffix_readSrc bytes) fun _ mid =>
      leavesSuffix_bind (ih mid) fun _ rest => leavesSuffix_ok _ (List.suffix_refl rest)

theorem leavesSuffix_readArg (bytes : List Byte) : LeavesSuffix bytes (readArg bytes) := by
  unfold readArg
  split
  case h_1 tag detail lo hi rest =>
    split
    · exact leavesSuffix_if (leavesSuffix_ok _ (suffix_drop4 ..))
    · refine leavesSuffix_if fun v left h => ?_
      exact (leavesSuffix_bind (leavesSuffix_readSrcs 16 rest)
        (fun lanes after => leavesSuffix_ok (Arg.bundle lanes) (List.suffix_refl after)) v left h).trans
        (suffix_drop4 ..)
    · exact leavesSuffix_src Arg.src _ _ _ _ _
  case h_2 => exact leavesSuffix_error _

theorem leavesSuffix_readElement (bytes : List Byte) : LeavesSuffix bytes (readElement bytes) := by
  cases bytes with
  | nil => exact leavesSuffix_error _
  | cons n rest => exact leavesSuffix_ok _ (List.suffix_cons n rest)

theorem leavesSuffix_readFwd (bytes : List Byte) : LeavesSuffix bytes (readFwd bytes) := by
  unfold readFwd
  split
  case h_1 flag chan lo hi rest =>
    split
    · exact leavesSuffix_if (leavesSuffix_ok _ (suffix_drop4 ..))
    · exact leavesSuffix_ok _ (suffix_drop4 ..)
    · exact leavesSuffix_error _
  case h_2 => exact leavesSuffix_error _

/-- Reading an argument and then going on. -/
theorem leavesSuffix_arg {β : Type} {bytes : List Byte} {next : Arg × List Byte → Except DecodeError (β × List Byte)}
    (h : ∀ a rest, LeavesSuffix rest (next (a, rest))) : LeavesSuffix bytes (readArg bytes >>= next) :=
  leavesSuffix_bind (leavesSuffix_readArg bytes) h

/-- Reading an element's number and then going on. -/
theorem leavesSuffix_element {β : Type} {bytes : List Byte}
    {next : Nat × List Byte → Except DecodeError (β × List Byte)}
    (h : ∀ n rest, LeavesSuffix rest (next (n, rest))) : LeavesSuffix bytes (readElement bytes >>= next) :=
  leavesSuffix_bind (leavesSuffix_readElement bytes) h

/-- The whole line has been read. -/
theorem leavesSuffix_line (l : Line) (rest : List Byte) :
    LeavesSuffix rest (pure (l, rest) : Except DecodeError (Line × List Byte)) :=
  leavesSuffix_ok l (List.suffix_refl rest)

/-- A forwarding pair is the last of its line. -/
theorem leavesSuffix_fwd {bytes : List Byte} (mk : Option Fwd → Line) :
    LeavesSuffix bytes (do let (fwd, rest) ← readFwd bytes; pure (mk fwd, rest)) :=
  leavesSuffix_bind (leavesSuffix_readFwd bytes) fun _ => leavesSuffix_line _

theorem leavesSuffix_readBody (sel : Byte) (bytes : List Byte) : LeavesSuffix bytes (readBody sel bytes) := by
  have gate1 (mk) : LeavesSuffix bytes (readGate1 mk bytes) := leavesSuffix_arg fun _ => leavesSuffix_line _
  have gate2 (mk) : LeavesSuffix bytes (readGate2 mk bytes) :=
    leavesSuffix_arg fun _ _ => leavesSuffix_arg fun _ => leavesSuffix_line _
  have gate3 (mk) : LeavesSuffix bytes (readGate3 mk bytes) :=
    leavesSuffix_arg fun _ _ => leavesSuffix_arg fun _ _ => leavesSuffix_arg fun _ => leavesSuffix_line _
  have tick (mk) : LeavesSuffix bytes (readTick mk bytes) := leavesSuffix_element fun _ => leavesSuffix_line _
  have bitRow (load) : LeavesSuffix bytes (readBitRow load bytes) :=
    leavesSuffix_element fun _ _ => leavesSuffix_arg fun _ => leavesSuffix_line _
  have regRow (load) : LeavesSuffix bytes (readRegRow load bytes) :=
    leavesSuffix_element fun _ _ => leavesSuffix_arg fun _ _ => leavesSuffix_fwd _
  unfold readBody
  split
  · exact leavesSuffix_element fun _ _ => leavesSuffix_arg fun _ _ => leavesSuffix_arg fun _ => leavesSuffix_line _
  split
  · exact bitRow false
  · exact bitRow true
  · exact regRow false
  · exact regRow true
  · exact leavesSuffix_element fun _ _ => leavesSuffix_arg fun _ _ => leavesSuffix_arg fun _ => leavesSuffix_line _
  · exact leavesSuffix_element fun _ _ => leavesSuffix_arg fun _ _ => leavesSuffix_arg fun _ _ => leavesSuffix_fwd _
  · exact leavesSuffix_element fun _ _ => leavesSuffix_arg fun _ _ => leavesSuffix_arg fun _ _ =>
      leavesSuffix_arg fun _ _ => leavesSuffix_arg fun _ _ => leavesSuffix_arg fun _ _ => leavesSuffix_arg fun _ _ =>
      leavesSuffix_arg fun _ _ => leavesSuffix_arg fun _ => leavesSuffix_line _
  · exact tick _
  · exact tick _
  · exact leavesSuffix_line _ _
  · exact gate1 _
  · exact gate2 _
  · exact gate2 _
  · exact gate3 _
  · exact gate1 _
  · exact gate2 _
  · exact gate3 _
  · exact gate2 _
  · exact leavesSuffix_arg fun _ _ => leavesSuffix_arg fun _ _ => leavesSuffix_arg fun _ _ =>
      leavesSuffix_arg fun _ _ => leavesSuffix_arg fun _ _ => leavesSuffix_arg fun _ _ => leavesSuffix_arg fun _ _ =>
      leavesSuffix_arg fun _ => leavesSuffix_line _
  · exact leavesSuffix_error _

/-- What the decoder accepts, it has read and found well formed. -/
theorem decodeLine_eq_ok {bytes rest : List Byte} {l : Line} (h : decodeLine bytes = .ok (l, rest)) :
    readLine bytes = .ok (l, rest) ∧ l.wf .encodable = true := by
  obtain ⟨⟨l', rest'⟩, hread, hwf⟩ := (Machine.bind_eq_ok ..).mp h
  dsimp only at hwf
  split at hwf
  case isTrue hl => cases hwf; exact ⟨hread, hl⟩
  case isFalse => cases hwf

/-- Settles O54: the decoder checks the line it has read, and the reader leaves a suffix of what follows the first
byte. -/
theorem decodedLinesAreWellFormed : Obligations.DecodedLinesAreWellFormed := by
  intro bytes rest l h
  obtain ⟨hread, hwf⟩ := decodeLine_eq_ok h
  cases bytes with
  | nil => cases hread
  | cons sel body =>
    have hsuffix : rest <:+ body := leavesSuffix_readBody sel body l rest hread
    exact ⟨hwf, hsuffix.trans (List.suffix_cons sel body), Nat.lt_succ_of_le hsuffix.length_le⟩

end Sys2Proof
end

section
/-! Proofs about lines and words that write operations out: such a line runs its operation (30_encoding.md R80), whether
the trace brings it or a table word stands for it, and the control words select their rows (R71, R76 to R78). -/

namespace Sys2Proof.Machine

/-! ### A written-out line runs its operation -/

/-- An argument that waits for nothing is a Signal written out, or absent. -/
theorem literal_eq_some {arg : Arg} {g : Option Sig} (h : arg.literal = some g) : arg = .ofSig g := by
  unfold Arg.literal at h
  split at h
  · cases h; rfl
  · cases h; rfl
  · cases h

/-- A line that is an operation is the line that writes this operation out. -/
theorem toLine_of_static {l : Line} {i : Instr} (h : l.static = some i) : l = i.toLine := by
  cases l <;> simp only [Line.static, Option.bind_eq_bind, Option.bind_eq_some_iff, Option.pure_def,
    Option.some.injEq, reduceCtorEq] at h
  case notGate | not16 =>
    obtain ⟨_, ha, rfl⟩ := h
    rw [literal_eq_some ha]; rfl
  case andGate | orGate | and16 | add16 =>
    obtain ⟨_, ha, _, hb, rfl⟩ := h
    rw [literal_eq_some ha, literal_eq_some hb]; rfl
  case muxGate | mux16 =>
    obtain ⟨_, ha, _, hb, _, hsel, rfl⟩ := h
    rw [literal_eq_some ha, literal_eq_some hb, literal_eq_some hsel]; rfl
  case or8way =>
    obtain ⟨_, h0, _, h1, _, h2, _, h3, _, h4, _, h5, _, h6, _, h7, rfl⟩ := h
    rw [literal_eq_some h0, literal_eq_some h1, literal_eq_some h2, literal_eq_some h3, literal_eq_some h4,
      literal_eq_some h5, literal_eq_some h6, literal_eq_some h7]; rfl
  case bitUpdate =>
    obtain ⟨load, hload, _, hinput, rfl⟩ := h
    rw [literalBit_eq_some hload, literal_eq_some hinput]
    cases load <;> rfl
  case regUpdate =>
    obtain ⟨load, hload, _, hword, rfl⟩ := h
    rw [literalBit_eq_some hload, literal_eq_some hword]
    cases load <;> rfl
  case aluUpdate =>
    obtain ⟨c, hctl, _, hx, _, hy, rfl⟩ := h
    obtain ⟨rfl, rfl, rfl, rfl, rfl, rfl⟩ := literalCtl_eq_some hctl
    rw [toLine_aluOfCtl, literal_eq_some hx, literal_eq_some hy]; rfl
  case bitTick | regTick => rw [← h]; rfl

/-- A Bit's line is its Update, of a Bit the circuit lacks too. -/
theorem runLine_bitLine_eq (b : Nat) (input load : Option Sig) (s : State) :
    runLine (bitLine b input load) s = bitUpdate b input load s := by
  cases h : s.bits[b]? with
  | some c => exact runLine_bitLine b input load s c h
  | none => simp [runLine, issue, bitLine, issueBit, h, needElement, bitUpdate]

/-- A Register's line is its Update, of a Register the circuit lacks too. -/
theorem runLine_regLine_eq (r : Nat) (word load : Option Sig) (fwd : Option Fwd) (s : State) :
    runLine (regLine r word load fwd) s = regUpdate r word load fwd s := by
  cases h : s.regs[r]? with
  | some c => exact runLine_regLine r word load fwd s c h
  | none => simp [runLine, issue, regLine, issueReg, h, needElement, regUpdate]

/-- An ALU's line is its Update, of an ALU the circuit lacks too. -/
theorem runLine_optsLine_eq (a : Nat) (o : AluOpts) (s : State) : runLine (optsLine a o) s = aluUpdate a o s := by
  cases h : s.alus[a]? with
  | some l => exact runLine_optsLine a o s l h
  | none => simp [runLine, issue, optsLine, issueAlu, h, needElement, aluUpdate]

/-- A Bit's line as it is wired is the Update on the Signals that its arguments resolve to. -/
theorem runLine_bitUpdate {s : State} {b : Nat} {input load : Arg} {inputSig loadSig : Option Sig}
    (hinput : resolve s.outs .input input = .ok inputSig) (hload : resolve s.outs .loadEnable load = .ok loadSig) :
    runLine (.bitUpdate b input load) s = bitUpdate b inputSig loadSig s := by
  have hissue : issue s (.bitUpdate b input load) = issue s (bitLine b inputSig loadSig) := by
    simp only [bitLine, issue, hinput, hload, resolve_ofSig]
  rw [← runLine_bitLine_eq, runLine, hissue, runLine]

/-- A Register's line as it is wired is the Update on the Signals that its arguments resolve to. -/
theorem runLine_regUpdate {s : State} {r : Nat} {word load : Arg} {fwd : Option Fwd} {wordSig loadSig : Option Sig}
    (hword : resolve s.outs .word word = .ok wordSig) (hload : resolve s.outs .loadEnable load = .ok loadSig) :
    runLine (.regUpdate r word load fwd) s = regUpdate r wordSig loadSig fwd s := by
  have hissue : issue s (.regUpdate r word load fwd) = issue s (regLine r wordSig loadSig fwd) := by
    simp only [regLine, issue, hword, hload, resolve_ofSig]
  rw [← runLine_regLine_eq, runLine, hissue, runLine]

/-- The line that writes an operation out runs it. -/
theorem runLine_toLine (i : Instr) (s : State) : runLine i.toLine s = exec i s := by
  cases form i with
  | gate ports op run =>
    cases i <;> simp [gatePorts] at op
    all_goals simp [Instr.toLine, runLine, issue]
  | bit b input load op =>
    rw [op, exec_bit, ← runLine_bitLine_eq]
    cases load <;> rfl
  | reg r word fwd load op =>
    rw [op, exec_reg, ← runLine_regLine_eq]
    cases load <;> rfl
  | bitTick b op => rw [op]; rfl
  | regTick r op => rw [op]; rfl
  | alu c a x y op =>
    rw [op, exec_aluOfCtl, toLine_aluOfCtl]
    exact runLine_optsLine_eq a (rowOpts c x y) s

/-- A table word that is an operation reads as the line that writes it out. -/
theorem decodeLine_tableBytes {nbits w : Nat} {i : Instr} (h : decodeTableWord nbits w = some i) :
    ∃ rest, decodeLine (tableBytes nbits w) = .ok (i.toLine, rest) := by
  unfold decodeTableWord at h
  split at h
  case h_1 l rest hread => exact ⟨rest, toLine_of_static h ▸ hread⟩
  case h_2 => cases h

/-- Settles O57: a step is the line it reads, and the line that writes an operation out runs it. -/
theorem stepRunsTheDecodedOperation : Obligations.StepRunsTheDecodedOperation := by
  refine ⟨fun s i rest h => ?_, fun s l rest h => step_of_decode h, fun s nbits w i h => ?_⟩
  · rw [step_of_decode h, runLine_toLine]
  · obtain ⟨rest, hread⟩ := decodeLine_tableBytes h
    exact ⟨rest, (step_of_decode (s := s.withFetchWord nbits w) hread).trans (runLine_toLine i _)⟩

/-- Settles O58: the reference resolves to the bit it names, and the line is the Update under that bit. -/
theorem computedLoadEnableSelects : Obligations.ComputedLoadEnableSelects := by
  intro s back port o v hout hport
  have hload : resolve s.outs .loadEnable (.src (.out back port)) = .ok (some (.bit v)) := by
    simp [resolve, needSrc, Src.resolve, hout, hport]
  refine ⟨fun r word fwd => ?_, fun b input => ?_⟩
  · rw [runLine_regUpdate (resolve_ofSig ..) hload, exec_reg]
  · rw [runLine_bitUpdate (resolve_ofSig ..) hload, exec_bit]

/-! ### Control words -/

/-- The bytes of an ALU row: its control word, the ALU, the two operands. -/
theorem encode_aluOfCtl (c : Ctl) (a : Nat) (x y : Option Sig) :
    encode (aluOfCtl c a x y) =
      c.setWidth 8 :: encodeElement a :: (encodeArg (.ofSig x) ++ encodeArg (.ofSig y)) := by
  simp [encode, toLine_aluOfCtl, aluLine, encodeLine, literalCtl, ctlOfFlags_ctlFlag]

/-- A table word of six bits lays out the row of that control word on ALU 0 with zero operands, and zeros after it. -/
theorem tableBytes_ctl {w : Nat} (hw : w < 64) :
    tableBytes 8 w = encode (aluOfCtl (BitVec.ofNat 6 w) 0 (some (.word 0#16)) (some (.word 0#16))) ++
      List.replicate 30 0#8 := by
  have hhigh : ∀ k ∈ List.range 39, ((fun k => BitVec.ofNat 8 ((w % 2 ^ 8) >>> (8 * k))) ∘ Nat.succ) k = 0#8 := by
    intro k _
    have hlt : w % 2 ^ 8 < 2 ^ (8 * (k + 1)) :=
      (Nat.mod_lt w (by decide)).trans_le (Nat.pow_le_pow_right (by decide) (by omega))
    rw [Function.comp_apply, Nat.succ_eq_add_one, Nat.shiftRight_eq_div_pow, Nat.div_eq_of_lt hlt]
  have hlow : BitVec.ofNat 8 ((w % 2 ^ 8) >>> (8 * 0)) = (BitVec.ofNat 6 w).setWidth 8 := by
    apply BitVec.eq_of_toNat_eq
    simp only [Nat.mul_zero, Nat.shiftRight_zero, BitVec.toNat_ofNat, BitVec.toNat_setWidth]
    omega
  rw [encode_aluOfCtl, tableBytes, tableBytesLength, List.range_succ_eq_map, List.map_cons, List.map_map, hlow,
    List.map_congr_left hhigh]
  rfl

/-- Settles O55: a table word is the encoding of its row, and a row's line carries the flags of its control word. -/
theorem controlWordsSelectTheirRows : Obligations.ControlWordsSelectTheirRows := by
  refine ⟨fun w hw => ?_, fun c d a b x y x' y' h => ?_, fun a x y => ?_⟩
  · obtain ⟨hread, hstatic⟩ := decodeOfEncodedOperation
      (aluOfCtl (BitVec.ofNat 6 w) 0 (some (.word 0#16)) (some (.word 0#16))) (List.replicate 30 0#8)
      (by rw [wf_aluOfCtl]; rfl)
    simp only [decodeTableWord, tableBytes_ctl hw, hread, hstatic]
  · have hline : aluLine c a x y = aluLine d b x' y' := by rw [← toLine_aluOfCtl, h, toLine_aluOfCtl]
    simp only [aluLine, Line.aluUpdate.injEq, Arg.bit, Arg.src.injEq, Src.sig.injEq, Sig.bit.injEq] at hline
    obtain ⟨-, -, -, h5, h4, h3, h2, h1, h0⟩ := hline
    rw [← ctlOfFlags_ctlFlag c, h5, h4, h3, h2, h1, h0, ctlOfFlags_ctlFlag]
  · exact ⟨rfl, rfl, rfl, rfl, rfl, rfl, rfl, rfl, rfl, rfl, rfl, rfl, rfl, rfl, rfl, rfl, rfl, rfl⟩

/-- Settles O56: each word, decoded by evaluation. -/
theorem writtenOutWordsDecode : Obligations.WrittenOutWordsDecode :=
  ⟨by decide, by decide, by decide, by decide, by decide⟩

end Sys2Proof.Machine
end

section
/-! Proofs about the whole machine (10_state.md): what construction leaves, what every step keeps, and which elements an
operation does not touch. -/

namespace Sys2Proof.Machine

/-! ### Elements written and built -/

/-- Writing an element as it is changes nothing. -/
theorem set_of_getElem? {α : Type} {l : List α} {i : Nat} {e : α} (h : l[i]? = some e) : l.set i e = l := by
  obtain ⟨hi, rfl⟩ := List.getElem?_eq_some_iff.mp h
  exact List.set_getElem_self hi

section
variable {α : Type} (f : Nat → α) (n i : Nat)

@[simp] theorem length_build : (build f n i).length = n := by
  induction n generalizing i with
  | zero => rfl
  | succ n ih => simp [build, ih]

theorem getElem?_build {k : Nat} (hk : k < n) : (build f n i)[k]? = some (f (i + k)) := by
  induction n generalizing i k with
  | zero => exact absurd hk (Nat.not_lt_zero k)
  | succ n ih =>
    cases k with
    | zero => rfl
    | succ k =>
      rw [build, List.getElem?_cons_succ, ih (i + 1) (Nat.lt_of_succ_lt_succ hk)]
      congr 2
      omega

/-- Every element of a kind is made by that kind's construction. -/
theorem mem_build {e : α} (h : e ∈ build f n i) : ∃ k, f k = e := by
  induction n generalizing i with
  | zero => cases h
  | succ n ih =>
    cases h with
    | head => exact ⟨i, rfl⟩
    | tail _ h => exact ih (i + 1) h

/-- What is done to every element of a kind changes none if it changes no element as constructed. -/
theorem map_build {g : α → α} (h : ∀ k, g (f k) = f k) : (build f n i).map g = build f n i := by
  refine (List.map_congr_left fun e he => ?_).trans (List.map_id _)
  obtain ⟨k, rfl⟩ := mem_build f n i he
  exact h k

end

/-! ### The latch invariant -/

@[simp] theorem latches_valid (p : AluIn) : p.latches.valid = true := rfl

theorem latches_settled (p : AluIn) : p.latches.settled = true := by simp [Latches.settled]

/-- A step leaves every ALU's latches alone, or one ALU with the eight valid Signals of an Update. -/
theorem step_alus {s t : State} (h : step s = .next t) :
    t.alus = s.alus ∨ ∃ (a : Nat) (p : AluIn), t.alus = s.alus.set a p.latches := by
  obtain ⟨l, rest, -, rfl | ⟨i, hrun⟩⟩ := step_next h
  · exact .inl rfl
  · cases exec_change hrun with
    | settle c a x y l o p op found driven => exact .inr ⟨a, p, rfl⟩
    | stageReg => exact .inl (by simp)
    | _ => exact .inl rfl

/-- Settles O45: a step writes no latches but those of a completed Update, which are valid. -/
theorem stepKeepsLatchesSettled : Obligations.StepKeepsLatchesSettled := by
  intro s t hs h
  obtain halus | ⟨a, p, halus⟩ := step_alus h
  · rw [State.inv, halus]; exact hs
  · rw [State.inv, List.all_eq_true] at hs ⊢
    intro l hl
    obtain hold | rfl := List.mem_or_eq_of_mem_set (halus ▸ hl)
    · exact hs l hold
    · exact latches_settled p

/-- Settles O47: a step leaves an ALU's latches as they are or writes valid ones. -/
theorem validLatchesStayValid : Obligations.ValidLatchesStayValid := by
  intro s t a l h hl hvalid
  obtain halus | ⟨k, p, halus⟩ := step_alus h
  · exact ⟨l, halus ▸ hl, hvalid⟩
  · by_cases hk : k = a
    · subst hk
      exact ⟨p.latches, by rw [halus, List.getElem?_set_self', hl]; rfl, latches_valid p⟩
    · exact ⟨l, by rw [halus, List.getElem?_set_ne hk, hl], hvalid⟩

theorem construct_inv (c : Circuit) : (State.construct c).inv = true := by
  rw [State.inv, List.all_eq_true]
  intro l hl
  obtain ⟨-, rfl⟩ := mem_build _ _ _ hl
  rfl

/-- Settles O46: construction leaves fresh latches. -/
theorem constructionSettlesLatches : Obligations.ConstructionSettlesLatches :=
  ⟨construct_inv, construct_inv Config.circuit⟩

/-! ### Construction -/

section
variable (c : Circuit)

theorem construct_regs {r : Nat} (h : r < c.nreg) :
    (State.construct c).regs[r]? = some ⟨Config.resetCur r, Config.resetCur r⟩ := by
  simpa [State.construct, RegCell.construct] using getElem?_build RegCell.construct c.nreg 0 h

theorem construct_bits {b : Nat} (h : b < c.nbit) :
    (State.construct c).bits[b]? = some ⟨Config.resetBit b, Config.resetBit b⟩ := by
  simpa [State.construct, BitCell.construct] using getElem?_build BitCell.construct c.nbit 0 h

theorem construct_alus {a : Nat} (h : a < c.nalu) : (State.construct c).alus[a]? = some Latches.fresh :=
  getElem?_build _ c.nalu 0 h

theorem construct_circuit : (State.construct c).circuit = c := by simp [State.circuit, State.construct]

end

/-- Settles O50: construction builds as many elements as the circuit has, each as its kind is made. -/
theorem constructionLeavesResetValues : Obligations.ConstructionLeavesResetValues := fun c =>
  ⟨fun _ => construct_regs c, fun _ => construct_bits c, fun _ => construct_alus c, construct_circuit c, rfl, rfl, rfl⟩

/-! ### What a step keeps, and what an operation does not touch -/

/-- Settles O48: reading a line takes bytes off the trace, and neither an operation nor the edge takes anything back. -/
theorem stepKeepsTheCircuit : Obligations.StepKeepsTheCircuit := by
  intro s t h
  obtain ⟨l, rest, hread, rfl | ⟨i, hrun⟩⟩ := step_next h
  all_goals obtain ⟨-, hsuffix, hshorter⟩ := decodedLinesAreWellFormed s.todo rest l hread
  · exact ⟨by simp [State.circuit], rfl, List.suffix_cons Outputs.nothing s.outs, List.suffix_refl s.events,
      hsuffix, hshorter⟩
  · obtain ⟨htodo, hcircuit⟩ := exec_circuit hrun
    obtain ⟨⟨o, houts⟩, hevents⟩ := exec_outs hrun
    rw [houts, htodo]
    exact ⟨hcircuit, rfl, List.suffix_cons o s.outs, hevents, hsuffix, hshorter⟩

/-- Settles O49: each kind of operation, from what its Update or Tick writes. -/
theorem elementsDoNotTouchOneAnother : Obligations.ElementsDoNotTouchOneAnother := by
  intro i s t h
  obtain ⟨htodo, hcircuit⟩ := exec_circuit h
  refine ⟨htodo, congrArg Circuit.slots hcircuit, fun hgate => ?_, fun c a x y hi => ?_, fun r hr => ?_, fun b hb => ?_⟩
  · obtain ⟨result, hrun⟩ := settles_of_gatePorts hgate
    obtain ⟨o, -, ho⟩ := (check_next ..).mp (hrun s ▸ h)
    rw [← Host.Outcome.next.inj ho]
    rfl
  · obtain ⟨l, p, -, -, rfl⟩ := (exec_aluOfCtl_next ..).mp (hi ▸ h)
    exact ⟨rfl, fun k hk => List.getElem?_set_ne hk.symm⟩
  · obtain hupdate | rfl := hr
    · obtain ⟨word, load, fwd, hrun⟩ := exec_of_updatesReg hupdate
      obtain ⟨-, c, ww, lv, -, -, -, rfl⟩ := (regUpdate_next ..).mp (hrun ▸ h)
      exact ⟨by simp, by simp, fun k hk => by simp [List.getElem?_set_ne hk.symm]⟩
    · obtain ⟨c, -, rfl⟩ := (regTick_next ..).mp h
      exact ⟨rfl, rfl, fun k hk => List.getElem?_set_ne hk.symm⟩
  · obtain hupdate | rfl := hb
    · obtain ⟨input, load, hrun⟩ := exec_of_updatesBit hupdate
      obtain ⟨c, iv, lv, -, -, -, rfl⟩ := (bitUpdate_next ..).mp (hrun ▸ h)
      exact ⟨rfl, fun k hk => List.getElem?_set_ne hk.symm⟩
    · obtain ⟨c, -, rfl⟩ := (bitTick_next ..).mp h
      exact ⟨rfl, fun k hk => List.getElem?_set_ne hk.symm⟩

end Sys2Proof.Machine
end

section
/-! Proofs about the gates (40_primitive_gates.md, 41_composite_gates.md): truth tables, whole words, the integer laws
of the adder, and the gates against their trees of primitives, errors included. -/

namespace Sys2Proof.Machine

/-! ### The gates as they run -/

section
variable (s : State)

@[simp] theorem exec_orGate_bit (a b : Bool) :
    exec (.orGate (some (.bit a)) (some (.bit b))) s = .next (s.emit (.bit (or1 a b))) := rfl

@[simp] theorem exec_add16_word (a b : Word) :
    exec (.add16 (some (.word a)) (some (.word b))) s = .next (s.emit (.word (add16 a b))) := rfl

@[simp] theorem exec_or8way_bit (i0 i1 i2 i3 i4 i5 i6 i7 : Bool) :
    exec (.or8way (some (.bit i0)) (some (.bit i1)) (some (.bit i2)) (some (.bit i3)) (some (.bit i4))
      (some (.bit i5)) (some (.bit i6)) (some (.bit i7))) s = .next (s.emit (.bit (or8 i0 i1 i2 i3 i4 i5 i6 i7))) := rfl

end

/-- OR8WAY's tree is the disjunction of its eight inputs. -/
theorem or8_eq (i0 i1 i2 i3 i4 i5 i6 i7 : Bool) :
    or8 i0 i1 i2 i3 i4 i5 i6 i7 = (i0 || i1 || i2 || i3 || i4 || i5 || i6 || i7) := by
  simp only [or8, or1, Bool.or_assoc]

/-- Settles O1: each primitive records its truth table's value. -/
theorem primitiveGatesComputeTheirTruthTables : Obligations.PrimitiveGatesComputeTheirTruthTables := fun s a b =>
  ⟨exec_notGate_bit s a, exec_andGate_bit s a b, exec_orGate_bit s a b⟩

/-- Settles O2: each gate records its formula's value. -/
theorem muxAndOr8wayCompute : Obligations.MuxAndOr8wayCompute := by
  intro s a b sel i0 i1 i2 i3 i4 i5 i6 i7
  refine ⟨exec_muxGate_bit s a b sel, ?_⟩
  rw [exec_or8way_bit, or8_eq]
  rfl

/-- Settles O5: the netlists of lanes are the operations on words. -/
theorem laneGatesComputeWholeWords : Obligations.LaneGatesComputeWholeWords := by
  intro s a b sel
  rw [exec_not16_word, exec_and16_word, exec_mux16_word, not16_eq, and16_eq, mux16_eq]
  exact ⟨rfl, rfl, rfl⟩

/-- Settles O6: the ripple adder is the addition of words, which is that of numbers modulo 65536. -/
theorem add16AddsModulo65536 : Obligations.Add16AddsModulo65536 := by
  intro s a b
  have hsum : a + b = BitVec.ofNat 16 ((a.toNat + b.toNat) % 65536) := by
    apply BitVec.eq_of_toNat_eq
    rw [BitVec.toNat_add, BitVec.toNat_ofNat, Nat.mod_mod]
  rw [exec_add16_word, add16_eq, hsum]
  rfl

/-- Settles O7: the trees are the definitions, and each sum and carry is that of the eight triples of bits. -/
theorem fullAdderCellsAddThreeBits : Obligations.FullAdderCellsAddThreeBits := fun p q c =>
  ⟨rfl, rfl, rfl, by cases p <;> cases q <;> cases c <;> decide, by cases p <;> cases q <;> cases c <;> decide⟩

/-- Settles O9: De Morgan, along the outputs of the four gates. -/
theorem orIsNotOfAndOfNots : Obligations.OrIsNotOfAndOfNots := by
  intro s a b
  refine ⟨not1 a, not1 b, and1 (not1 a) (not1 b), or1 a b, rfl, rfl, rfl, ?_, rfl⟩
  rw [exec_notGate_bit, outOf_next_emit, and1, not1, not1, not1, Bool.not_and, Bool.not_not, Bool.not_not, or1]

/-! ### The integer laws -/

/-- The complement is the negation less one. -/
theorem not_eq_neg_sub_one (w : Word) : ~~~w = -w - 1#16 := by
  rw [BitVec.neg_eq_not_add, BitVec.add_sub_cancel]

/-- Settles O8: the adder adds in the ring of words, where the complement is the negation less one, and a sum beyond the
signed range wraps once. -/
theorem adderObeysTheIntegerLaws : Obligations.AdderObeysTheIntegerLaws := by
  intro a b c
  have hminus : (0xFFFF#16 : Word) = -1#16 := rfl
  have ha := a.toInt_lt
  have ha' := a.le_toInt
  have hb := b.toInt_lt
  have hb' := b.le_toInt
  simp only [add16_eq, not16_eq, zero16, not_eq_neg_sub_one, hminus, BitVec.toInt_add]
  refine ⟨BitVec.toNat_add a b, ?_, ?_, ?_, by ring, by ring, BitVec.add_zero a, by ring, by ring,
    by ring, by ring, by ring⟩
  all_goals
    intro hrange
    rw [Int.bmod_def]
    omega

/-! ### Trees of primitives (R22, R94, R112) -/

section
variable {wire : Nat → Option Sig} {t u : Tree} {a b : Bool} {o : Option Sig}

theorem update_port {k : Nat} : (Tree.port k).update wire = .ok o ↔ wire k = o := by
  rw [Tree.update, Except.ok.injEq]

/-- A NOT at the root settles exactly when its input settles to a bit. -/
theorem update_not : (Tree.not t).update wire = .ok o ↔
    ∃ a, t.update wire = .ok (some (.bit a)) ∧ o = some (.bit (not1 a)) := by
  simp only [Tree.update, bind_eq_ok, need1_eq_ok, pure, Except.pure, Except.ok.injEq]
  exact ⟨fun ⟨_, ht, a, ha, ho⟩ => ⟨a, ha ▸ ht, ho.symm⟩, fun ⟨a, ht, ho⟩ => ⟨_, ht, a, rfl, ho.symm⟩⟩

/-- An AND at the root settles exactly when both its inputs settle to bits: there is no short-circuit (D12). -/
theorem update_and : (Tree.and t u).update wire = .ok o ↔ ∃ a b, t.update wire = .ok (some (.bit a)) ∧
    u.update wire = .ok (some (.bit b)) ∧ o = some (.bit (and1 a b)) := by
  simp only [Tree.update, bind_eq_ok, need1_eq_ok, pure, Except.pure, Except.ok.injEq]
  exact ⟨fun ⟨_, ht, _, hu, a, ha, b, hb, ho⟩ => ⟨a, b, ha ▸ ht, hb ▸ hu, ho.symm⟩,
    fun ⟨a, b, ht, hu, ho⟩ => ⟨_, ht, _, hu, a, rfl, b, rfl, ho.symm⟩⟩

/-- An OR at the root, likewise. -/
theorem update_or : (Tree.or t u).update wire = .ok o ↔ ∃ a b, t.update wire = .ok (some (.bit a)) ∧
    u.update wire = .ok (some (.bit b)) ∧ o = some (.bit (or1 a b)) := by
  simp only [Tree.update, bind_eq_ok, need1_eq_ok, pure, Except.pure, Except.ok.injEq]
  exact ⟨fun ⟨_, ht, _, hu, a, ha, b, hb, ho⟩ => ⟨a, b, ha ▸ ht, hb ▸ hu, ho.symm⟩,
    fun ⟨a, b, ht, hu, ho⟩ => ⟨_, ht, _, hu, a, rfl, b, rfl, ho.symm⟩⟩

theorem update_xorTree (ht : t.update wire = .ok (some (.bit a))) (hu : u.update wire = .ok (some (.bit b))) :
    (xorTree t u).update wire = .ok (some (.bit (xorCell a b))) :=
  update_or.mpr ⟨_, _, update_and.mpr ⟨a, _, ht, update_not.mpr ⟨b, hu, rfl⟩, rfl⟩,
    update_and.mpr ⟨_, b, update_not.mpr ⟨a, ht, rfl⟩, hu, rfl⟩, rfl⟩

end

/-- A tree and a gate that settle to the same values on the same inputs agree, errors included: a tree that settles to
nothing has raised, and so has a gate that does not complete. -/
theorem tree_agrees_with_gate {tree : Tree} {wire : Nat → Option Sig} {i : Instr} {s : State} {returns : Bool → Prop}
    (hgate : (gatePorts i).isSome = true)
    (htree : ∀ o, tree.update wire = .ok o ↔ ∃ v, returns v ∧ o = some (.bit v))
    (hexec : ∀ t, exec i s = .next t ↔ ∃ v, returns v ∧ t = s.emit (.bit v)) :
    (∀ v : Bool, tree.update wire = .ok (some (.bit v)) ↔ outOf (exec i s) = some (.bit v)) ∧
    ((∃ f, tree.update wire = .error f) ↔ ∃ f, exec i s = .fault f) := by
  obtain ⟨result, hrun⟩ := settles_of_gatePorts hgate
  by_cases hsome : ∃ v, returns v
  · obtain ⟨v, hv⟩ := hsome
    rw [(htree _).mpr ⟨v, hv, rfl⟩, (hexec _).mpr ⟨v, hv, rfl⟩]
    simp
  · have hnot : ∀ o, tree.update wire ≠ .ok o := fun o ho => hsome ((htree o).mp ho |>.imp fun _ h => h.1)
    have hnotnext : ∀ t, exec i s ≠ .next t := fun t ht => hsome ((hexec t).mp ht |>.imp fun _ h => h.1)
    obtain ⟨e, he⟩ : ∃ e, tree.update wire = .error e := by
      cases h : tree.update wire with
      | error e => exact ⟨e, rfl⟩
      | ok o => exact absurd h (hnot o)
    obtain ⟨f, hf⟩ : ∃ f, exec i s = .fault f := by
      cases hresult : result with
      | error f => exact ⟨f, by rw [hrun, hresult, check_error]⟩
      | ok o => exact absurd (by rw [hrun, hresult, check_ok]) (hnotnext (s.emit o))
    rw [he, hf]
    simp [outOf, nextOf]

/-- MUX returns `v` on these inputs: all three are bits (R101). -/
def MuxReturns (a b sel : Option Sig) (v : Bool) : Prop :=
  ∃ x y z, a = some (.bit x) ∧ b = some (.bit y) ∧ sel = some (.bit z) ∧ v = mux1 x y z

/-- OR8WAY returns `v` on these inputs: all eight are bits (R110). -/
def Or8wayReturns (i0 i1 i2 i3 i4 i5 i6 i7 : Option Sig) (v : Bool) : Prop :=
  ∃ b0 b1 b2 b3 b4 b5 b6 b7, i0 = some (.bit b0) ∧ i1 = some (.bit b1) ∧ i2 = some (.bit b2) ∧ i3 = some (.bit b3) ∧
    i4 = some (.bit b4) ∧ i5 = some (.bit b5) ∧ i6 = some (.bit b6) ∧ i7 = some (.bit b7) ∧
    v = or8 b0 b1 b2 b3 b4 b5 b6 b7

theorem exec_muxGate_next (a b sel : Option Sig) (s t : State) :
    exec (.muxGate a b sel) s = .next t ↔ ∃ v, MuxReturns a b sel v ∧ t = s.emit (.bit v) := by
  simp only [exec, execMuxGate, check_next, need1_eq_ok, Host.Outcome.next.injEq, MuxReturns]
  constructor
  · rintro ⟨x, hx, y, hy, z, hz, rfl⟩
    exact ⟨_, ⟨x, y, z, hx, hy, hz, rfl⟩, rfl⟩
  · rintro ⟨_, ⟨x, y, z, hx, hy, hz, rfl⟩, rfl⟩
    exact ⟨x, hx, y, hy, z, hz, rfl⟩

theorem muxTree_update (a b sel o : Option Sig) :
    muxTree.update (listWires [a, b, sel]) = .ok o ↔ ∃ v, MuxReturns a b sel v ∧ o = some (.bit v) := by
  simp only [muxTree, update_or, update_and, update_not, update_port, MuxReturns]
  constructor
  · rintro ⟨_, _, ⟨x, _, hx, ⟨z, hz, hnz⟩, hxz⟩, ⟨z', y, hz', hy, hzy⟩, rfl⟩
    cases hnz; cases hxz; cases hzy
    obtain rfl : z = z' := by simpa [hz] using hz'
    exact ⟨_, ⟨x, y, z, hx, hy, hz, rfl⟩, rfl⟩
  · rintro ⟨_, ⟨x, y, z, hx, hy, hz, rfl⟩, rfl⟩
    exact ⟨_, _, ⟨x, _, hx, ⟨z, hz, rfl⟩, rfl⟩, ⟨z, y, hz, hy, rfl⟩, rfl⟩

theorem exec_or8way_next (i0 i1 i2 i3 i4 i5 i6 i7 : Option Sig) (s t : State) :
    exec (.or8way i0 i1 i2 i3 i4 i5 i6 i7) s = .next t ↔
      ∃ v, Or8wayReturns i0 i1 i2 i3 i4 i5 i6 i7 v ∧ t = s.emit (.bit v) := by
  simp only [exec, execOr8way, check_next, need1_eq_ok, Host.Outcome.next.injEq, Or8wayReturns]
  constructor
  · rintro ⟨b0, h0, b1, h1, b2, h2, b3, h3, b4, h4, b5, h5, b6, h6, b7, h7, rfl⟩
    exact ⟨_, ⟨b0, b1, b2, b3, b4, b5, b6, b7, h0, h1, h2, h3, h4, h5, h6, h7, rfl⟩, rfl⟩
  · rintro ⟨_, ⟨b0, b1, b2, b3, b4, b5, b6, b7, h0, h1, h2, h3, h4, h5, h6, h7, rfl⟩, rfl⟩
    exact ⟨b0, h0, b1, h1, b2, h2, b3, h3, b4, h4, b5, h5, b6, h6, b7, h7, rfl⟩

theorem or8Tree_update (i0 i1 i2 i3 i4 i5 i6 i7 o : Option Sig) :
    or8Tree.update (listWires [i0, i1, i2, i3, i4, i5, i6, i7]) = .ok o ↔
      ∃ v, Or8wayReturns i0 i1 i2 i3 i4 i5 i6 i7 v ∧ o = some (.bit v) := by
  simp only [or8Tree, update_or, update_port, Or8wayReturns, Option.some.injEq, Sig.bit.injEq]
  constructor
  · rintro ⟨_, _, ⟨_, _, ⟨b0, b1, h0, h1, rfl⟩, ⟨b2, b3, h2, h3, rfl⟩, rfl⟩,
      ⟨_, _, ⟨b4, b5, h4, h5, rfl⟩, ⟨b6, b7, h6, h7, rfl⟩, rfl⟩, rfl⟩
    exact ⟨_, ⟨b0, b1, b2, b3, b4, b5, b6, b7, h0, h1, h2, h3, h4, h5, h6, h7, rfl⟩, rfl⟩
  · rintro ⟨_, ⟨b0, b1, b2, b3, b4, b5, b6, b7, h0, h1, h2, h3, h4, h5, h6, h7, rfl⟩, rfl⟩
    exact ⟨_, _, ⟨_, _, ⟨b0, b1, h0, h1, rfl⟩, ⟨b2, b3, h2, h3, rfl⟩, rfl⟩,
      ⟨_, _, ⟨b4, b5, h4, h5, rfl⟩, ⟨b6, b7, h6, h7, rfl⟩, rfl⟩, rfl⟩

/-- Settles O10: tree and gate return the same value on bits, and both raise on anything else. -/
theorem oneBitCompositesAgreeWithTheirTrees : Obligations.OneBitCompositesAgreeWithTheirTrees := by
  intro s a b sel i0 i1 i2 i3 i4 i5 i6 i7
  obtain ⟨hmux, hmuxError⟩ := tree_agrees_with_gate rfl (muxTree_update a b sel) (exec_muxGate_next a b sel s)
  exact ⟨hmux, hmuxError, tree_agrees_with_gate rfl (or8Tree_update i0 i1 i2 i3 i4 i5 i6 i7)
    (exec_or8way_next i0 i1 i2 i3 i4 i5 i6 i7 s)⟩

/-! ### The carry chain -/

section
variable (a b : Word) {i : Nat}

theorem adderWires_a (hi : i < 16) : (Tree.port i).update (adderWires a b) = .ok (some (.bit (a.getLsbD i))) := by
  simp [Tree.update, adderWires, hi]

theorem adderWires_b : (Tree.port (16 + i)).update (adderWires a b) = .ok (some (.bit (b.getLsbD i))) := by
  simp [Tree.update, adderWires]

/-- The carry tree of a lane settles to the carry into it. -/
theorem carryTree_update (hi : i ≤ 16) :
    (carryTree i).update (adderWires a b) = .ok (some (.bit (carryInto a b i))) := by
  induction i with
  | zero => rfl
  | succ i ih =>
    have hlane : i < 16 := hi
    exact update_or.mpr ⟨_, _, update_and.mpr ⟨_, _, adderWires_a a b hlane, adderWires_b a b, rfl⟩,
      update_and.mpr ⟨_, _, ih hlane.le, update_xorTree (adderWires_a a b hlane) (adderWires_b a b), rfl⟩, rfl⟩

theorem sumTree_update (hi : i < 16) :
    (sumTree i).update (adderWires a b) = .ok (some (.bit ((add16 a b).getLsbD i))) := by
  rw [add16, getLsbD_ofLanes, decide_eq_true hi, Bool.true_and]
  exact update_xorTree (update_xorTree (adderWires_a a b hi) (adderWires_b a b)) (carryTree_update a b hi.le)

end

/-- Settles O11: by induction along the carry chain, each lane's tree settles to the lane of the ripple adder. -/
theorem adderAgreesWithItsCarryChainTrees : Obligations.AdderAgreesWithItsCarryChainTrees := fun s a b =>
  ⟨add16 a b, exec_add16_word s a b, fun _ => sumTree_update a b⟩

end Sys2Proof.Machine
end

section
/-! Proofs about the errors (60_exceptions.md): the first failing port decides, a Tick raises nothing, and Deadlock is
raised by the rendezvous alone, where it does not happen. -/

namespace Sys2Proof.Machine

/-! ### The first failing port (R206) -/

/-- Every gate checks its ports in port-list order and then completes. -/
theorem raisesFirst_gate {i : Instr} {ports : List PortCheck} (h : gatePorts i = some ports) (s : State) :
    RaisesFirst ports (exec i s) := by
  cases i with
  | notGate a =>
    cases h
    exact raisesFirst_need1 fun _ _ => raisesFirst_next _
  | andGate a b =>
    cases h
    exact raisesFirst_need1 fun _ _ => raisesFirst_need1 fun _ _ => raisesFirst_next _
  | orGate a b =>
    cases h
    exact raisesFirst_need1 fun _ _ => raisesFirst_need1 fun _ _ => raisesFirst_next _
  | muxGate a b sel =>
    cases h
    exact raisesFirst_need1 fun _ _ => raisesFirst_need1 fun _ _ => raisesFirst_need1 fun _ _ => raisesFirst_next _
  | not16 a =>
    cases h
    exact raisesFirst_need16 fun _ _ => raisesFirst_next _
  | and16 a b =>
    cases h
    exact raisesFirst_need16 fun _ _ => raisesFirst_need16 fun _ _ => raisesFirst_next _
  | mux16 a b sel =>
    cases h
    exact raisesFirst_need16 fun _ _ => raisesFirst_need16 fun _ _ => raisesFirst_need1 fun _ _ => raisesFirst_next _
  | add16 a b =>
    cases h
    exact raisesFirst_need16 fun _ _ => raisesFirst_need16 fun _ _ => raisesFirst_next _
  | or8way i0 i1 i2 i3 i4 i5 i6 i7 =>
    cases h
    exact raisesFirst_need1 fun _ _ => raisesFirst_need1 fun _ _ => raisesFirst_need1 fun _ _ =>
      raisesFirst_need1 fun _ _ => raisesFirst_need1 fun _ _ => raisesFirst_need1 fun _ _ =>
      raisesFirst_need1 fun _ _ => raisesFirst_need1 fun _ _ => raisesFirst_next _
  | _ => cases h

section
variable {s : State}

theorem raisesFirst_bitUpdate {b : Nat} {c : BitCell} (h : s.bits[b]? = some c) (input load : Option Sig) :
    RaisesFirst (bitPorts input load) (bitUpdate b input load s) := by
  rw [bitUpdate, h, element_some]
  exact raisesFirst_need1 fun _ _ => raisesFirst_need1 fun _ _ => raisesFirst_next _

theorem raisesFirst_regUpdate {r : Nat} {c : RegCell} {fwd : Option Fwd} (h : s.regs[r]? = some c)
    (hslot : slotOk s.slots fwd = true) (word load : Option Sig) :
    RaisesFirst (regPorts word load) (regUpdate r word load fwd s) := by
  rw [regUpdate, h, element_some, slotted_eq _ _ _ hslot]
  simp only [RegCell.update_eq, check_ok]
  exact raisesFirst_need16 fun _ _ => raisesFirst_need1 fun _ _ => raisesFirst_next _

theorem raisesFirst_read (l : Latches) (next : AluIn → State) :
    RaisesFirst (aluPorts l) (check l.read fun p => .next (next p)) := by
  simp only [Latches.read, check_bind]
  exact raisesFirst_need16 fun _ _ => raisesFirst_need16 fun _ _ => raisesFirst_need1 fun _ _ =>
    raisesFirst_need1 fun _ _ => raisesFirst_need1 fun _ _ => raisesFirst_need1 fun _ _ =>
    raisesFirst_need1 fun _ _ => raisesFirst_need1 fun _ _ => raisesFirst_next _

theorem raisesFirst_aluUpdate {a : Nat} {l : Latches} (h : s.alus[a]? = some l) (o : AluOpts) :
    RaisesFirst (aluPorts (l.drive o)) (aluUpdate a o s) := by
  rw [aluUpdate, h, element_some]
  exact raisesFirst_read _ _

end

/-- Settles O12: gates by their checks, the other elements' lines as the Updates they are. -/
theorem firstFailingPortDecidesTheFault : Obligations.FirstFailingPortDecidesTheFault := by
  refine ⟨fun i ports s h => raisesFirst_gate h s, fun b input load s c h => ?_, fun r word load fwd s c h hslot => ?_,
    fun a o s l h => ?_, fun c f g hf hg => Option.some.inj (hf.symm.trans hg)⟩
  · rw [runLine_bitLine_eq]
    exact raisesFirst_bitUpdate h input load
  · rw [runLine_regLine_eq]
    exact raisesFirst_regUpdate h hslot word load
  · rw [runLine_optsLine_eq]
    exact raisesFirst_aluUpdate h o

/-- Settles O13: a row is its element's Update under the row's own control bits. -/
theorem rowsRaiseInPortOrder : Obligations.RowsRaiseInPortOrder := by
  refine ⟨fun b input s c h => ⟨raisesFirst_bitUpdate h _ _, raisesFirst_bitUpdate h _ _⟩,
    fun r word fwd s c h hslot => ⟨raisesFirst_regUpdate h hslot _ _, raisesFirst_regUpdate h hslot _ _⟩,
    fun c a x y s l h => ?_⟩
  rw [exec_aluOfCtl]
  exact raisesFirst_aluUpdate h _

/-- Settles O14: after the element is found a Tick checks nothing, and TICK checks nothing at all. -/
theorem ticksRaiseNothing : Obligations.TicksRaiseNothing := by
  intro s b r f
  refine ⟨?_, ?_, fun h => by cases h⟩
  · simp [exec, execBitTick, bitTick]
  · simp [exec, execRegTick, regTick]

/-! ### No fault but those of ports -/

/-- The fault is one that a port check raises, and so not Deadlock. -/
def IsPortFault (f : Fault) : Prop := ∃ p, f = .uninitializedSignal p ∨ f = .invalidWidth p

theorem isPortFault_of_check {c : PortCheck} {f : Fault} (h : c.fault = some f) : IsPortFault f := by
  refine ⟨c.name, ?_⟩
  unfold PortCheck.fault at h
  split at h
  · exact .inl (Option.some.inj h).symm
  · exact .inl (Option.some.inj h).symm
  · split at h
    · exact .inr (Option.some.inj h).symm
    · cases h
  · split at h
    · cases h
    · exact .inr (Option.some.inj h).symm

/-- What raises by its first failing port raises a port's fault. -/
theorem isPortFault_of_raisesFirst {ports : List PortCheck} {o : Outcome} {f : Fault} (h : RaisesFirst ports o)
    (hf : o = .fault f) : IsPortFault f := by
  obtain ⟨c, -, hc⟩ := List.exists_of_findSome?_eq_some ((h.1 f).mp hf)
  exact isPortFault_of_check hc

/-- The fault of an operation is that of one of its ports. -/
theorem exec_fault {i : Instr} {s : State} {f : Fault} (h : exec i s = .fault f) : IsPortFault f := by
  cases form i with
  | gate ports op run => exact isPortFault_of_raisesFirst (raisesFirst_gate op s) h
  | bit b input load op =>
    rw [op, exec_bit] at h
    obtain ⟨c, hc, -⟩ := (element_fault ..).mp h
    exact isPortFault_of_raisesFirst (raisesFirst_bitUpdate hc _ _) h
  | reg r word fwd load op =>
    rw [op, exec_reg] at h
    obtain ⟨c, hc, hrest⟩ := (element_fault ..).mp h
    obtain ⟨hslot, -⟩ := (slotted_fault ..).mp hrest
    exact isPortFault_of_raisesFirst (raisesFirst_regUpdate hc hslot _ _) h
  | bitTick b op => exact absurd (op ▸ h) (ticksRaiseNothing s b 0 f).1
  | regTick r op => exact absurd (op ▸ h) (ticksRaiseNothing s 0 r f).2.1
  | alu c a x y op =>
    rw [op, exec_aluOfCtl] at h
    obtain ⟨l, hl, -⟩ := (element_fault ..).mp h
    exact isPortFault_of_raisesFirst (raisesFirst_aluUpdate hl _) h

/-- If this stops with a fault, it is a port's. -/
def StopsAtPorts {α : Type} (r : Except Stop α) : Prop := ∀ f, r = .error (.fault f) → IsPortFault f

section
variable {α β : Type}

theorem stopsAtPorts_ok (v : α) : StopsAtPorts (.ok v) := fun _ h => by cases h

theorem stopsAtPorts_refused (why : Refusal) : StopsAtPorts (.error (.refused why) : Except Stop α) :=
  fun _ h => by cases h

theorem stopsAtPorts_bind {r : Except Stop α} {k : α → Except Stop β} (hr : StopsAtPorts r)
    (hk : ∀ v, StopsAtPorts (k v)) : StopsAtPorts (r >>= k) := by
  cases r with
  | ok v => exact hk v
  | error e => exact fun f h => hr f (by cases h; rfl)

/-- A list that fails has an element that fails so. -/
theorem mapM_eq_error {ε : Type} {g : α → Except ε β} {l : List α} {e : ε} (h : l.mapM g = .error e) :
    ∃ x ∈ l, g x = .error e := by
  induction l with
  | nil => cases h
  | cons x l ih =>
    rw [List.mapM_cons] at h
    cases hx : g x with
    | error e' =>
      rw [hx] at h
      cases h
      exact ⟨x, List.mem_cons_self, hx⟩
    | ok v =>
      cases hl : l.mapM g with
      | error e' =>
        rw [hx, hl] at h
        cases h
        obtain ⟨y, hy, hyerr⟩ := ih hl
        exact ⟨y, List.mem_cons_of_mem x hy, hyerr⟩
      | ok vs => rw [hx, hl] at h; cases h

theorem stopsAtPorts_mapM {g : α → Except Stop β} (h : ∀ x, StopsAtPorts (g x)) (l : List α) :
    StopsAtPorts (l.mapM g) := fun f hf => by
  obtain ⟨x, -, hx⟩ := mapM_eq_error hf
  exact h x f hx

theorem stopsAtPorts_faulting {r : Except Fault α} (h : ∀ f, r = .error f → IsPortFault f) :
    StopsAtPorts (faulting r) := by
  cases r with
  | ok v => exact stopsAtPorts_ok v
  | error e => exact fun f hf => h f (by cases hf; rfl)

end

theorem stopsAtPorts_need1 (p : Port) (g : Option Sig) : StopsAtPorts (faulting (need1 p g)) :=
  stopsAtPorts_faulting fun f h => ⟨p, need1_error p g f h⟩

theorem stopsAtPorts_need16 (p : Port) (g : Option Sig) : StopsAtPorts (faulting (need16 p g)) :=
  stopsAtPorts_faulting fun f h => ⟨p, need16_error p g f h⟩

theorem stopsAtPorts_needElement {α : Type} (found : Option α) : StopsAtPorts (needElement found) := by
  cases found with
  | some e => exact stopsAtPorts_ok e
  | none => exact stopsAtPorts_refused _

theorem stopsAtPorts_resolve (outs : List Outputs) (p : Port) (arg : Arg) : StopsAtPorts (resolve outs p arg) := by
  have hsrc : ∀ x, StopsAtPorts (needSrc outs x) := fun x => by
    unfold needSrc
    split
    · exact stopsAtPorts_ok _
    · exact stopsAtPorts_refused _
  cases arg with
  | absent => exact stopsAtPorts_ok _
  | src x => exact stopsAtPorts_bind (hsrc x) fun _ => stopsAtPorts_ok _
  | bundle lanes =>
    refine stopsAtPorts_bind (stopsAtPorts_mapM hsrc lanes) fun sigs =>
      stopsAtPorts_bind (stopsAtPorts_faulting fun f hf => ?_) fun _ => stopsAtPorts_ok _
    cases hbits : sigs.mapM fun g => need1 p (some g) with
    | ok bits => rw [bundle, hbits] at hf; cases hf
    | error e =>
      rw [bundle, hbits] at hf
      cases hf
      obtain ⟨g, -, hg⟩ := mapM_eq_error hbits
      exact ⟨p, need1_error p _ _ hg⟩

theorem stopsAtPorts_issueBit (s : State) (b : Nat) (input load : Option Sig) :
    StopsAtPorts (issueBit s b input load) :=
  stopsAtPorts_bind (stopsAtPorts_needElement _) fun _ => stopsAtPorts_bind (stopsAtPorts_need1 _ _) fun _ =>
    stopsAtPorts_bind (stopsAtPorts_need1 _ _) fun _ => stopsAtPorts_ok _

theorem stopsAtPorts_issueReg (s : State) (r : Nat) (word load : Option Sig) (fwd : Option Fwd) :
    StopsAtPorts (issueReg s r word load fwd) := by
  refine stopsAtPorts_bind (stopsAtPorts_needElement _) fun _ => stopsAtPorts_bind ?_ fun _ =>
    stopsAtPorts_bind (stopsAtPorts_need16 _ _) fun _ => stopsAtPorts_bind (stopsAtPorts_need1 _ _) fun _ =>
    stopsAtPorts_ok _
  unfold needSlot
  split
  · exact stopsAtPorts_ok _
  · exact stopsAtPorts_refused _

theorem stopsAtPorts_issueAlu (s : State) (a : Nat) (o : AluOpts) : StopsAtPorts (issueAlu s a o) :=
  stopsAtPorts_bind (stopsAtPorts_needElement _) fun l => stopsAtPorts_bind
    (stopsAtPorts_faulting fun f hf =>
      isPortFault_of_raisesFirst (raisesFirst_read (l.drive o) fun _ => s) (by rw [hf, check_error]))
    fun _ => stopsAtPorts_ok _

theorem stopsAtPorts_issue (s : State) (l : Line) : StopsAtPorts (issue s l) := by
  rw [issue_eq]
  refine stopsAtPorts_bind (stopsAtPorts_mapM (fun _ => stopsAtPorts_resolve _ _ _) _) fun sigs => ?_
  unfold issueWith
  split
  case h_10 => exact stopsAtPorts_bind (stopsAtPorts_issueBit s _ _ _) fun _ => stopsAtPorts_ok _
  case h_11 => exact stopsAtPorts_bind (stopsAtPorts_issueReg s _ _ _ _) fun _ => stopsAtPorts_ok _
  case h_12 => exact stopsAtPorts_bind (stopsAtPorts_issueAlu s _ _) fun _ => stopsAtPorts_ok _
  case h_16 => exact stopsAtPorts_refused _
  all_goals exact stopsAtPorts_ok _

/-- The fault of a line is that of one of its ports, as it is wired or as it runs. -/
theorem runLine_fault {l : Line} {s : State} {f : Fault} (h : runLine l s = .fault f) : IsPortFault f := by
  unfold runLine at h
  split at h
  · exact exec_fault h
  · cases h
  · next hissue =>
    cases h
    exact stopsAtPorts_issue s l f hissue
  · cases h

/-- Settles O15: the fault of a step is that of a port, and Deadlock is not. -/
theorem noStepDeadlocks : Obligations.NoStepDeadlocks := by
  intro s lane h
  obtain ⟨l, rest, -, hrun⟩ | ⟨why, hwhy⟩ := step_cases s
  · obtain ⟨p, hp | hp⟩ := runLine_fault (hrun ▸ h)
    · cases hp
    · cases hp
  · rw [hwhy] at h; cases h

/-! ### The rendezvous (R203) -/

/-- The rendezvous raises Deadlock for a lane without a reply. -/
theorem collect_error {replies : List (Nat × Bool)} {lane : Nat} (h : collect replies = .error (.deadlock lane)) :
    lane < 16 ∧ ∀ v, (lane, v) ∉ replies := by
  unfold collect at h
  split at h
  case h_1 found =>
    cases h
    refine ⟨List.mem_range.mp (List.mem_of_find?_eq_some found), fun v hv => ?_⟩
    have hno := List.find?_some found
    simp only [Bool.not_eq_true', List.any_eq_false, beq_iff_eq] at hno
    exact hno _ hv rfl
  case h_2 => cases h

/-- A lane without a reply makes the rendezvous raise Deadlock. -/
theorem collect_missing {replies : List (Nat × Bool)} {lane : Nat} (hlane : lane < 16)
    (hmissing : ∀ v, (lane, v) ∉ replies) : ∃ first, collect replies = .error (.deadlock first) := by
  unfold collect
  split
  case h_1 first _ => exact ⟨first, rfl⟩
  case h_2 hnone =>
    have hreplied := List.find?_eq_none.mp hnone lane (List.mem_range.mpr hlane)
    simp only [Bool.not_eq_true, Bool.not_eq_false', List.any_eq_true, beq_iff_eq] at hreplied
    obtain ⟨⟨k, v⟩, hmem, rfl⟩ := hreplied
    exact absurd hmem (hmissing v)

/-- Settles O16: the lane named has no reply, a lane without a reply is found, and with none missing the replies are
joined. -/
theorem missingLaneReplyIsDeadlock : Obligations.MissingLaneReplyIsDeadlock := fun replies =>
  ⟨fun _ => collect_error, fun ⟨_, hlane, hmissing⟩ => collect_missing hlane hmissing,
    fun h => ⟨_, collect_eq_ok replies h⟩⟩

end Sys2Proof.Machine
end

section
/-! Proofs about storage (42_storage.md) and the two phases (20_memory.md): what an Update stages and returns, what a
Tick commits, the laws of the Register, and the global edge. -/

namespace Sys2Proof.Machine

/-! ### Updates and Ticks that complete -/

section
variable {s : State}

theorem bitUpdate_eq {b : Nat} {c : BitCell} (hc : s.bits[b]? = some c) (input load : Bool) :
    bitUpdate b (some (.bit input)) (some (.bit load)) s =
      .next ((s.setBit b ⟨c.cur, if load then input else c.cur⟩).emit (.bit c.cur)) :=
  (bitUpdate_next ..).mpr ⟨c, input, load, hc, rfl, rfl, rfl⟩

theorem regUpdate_eq {r : Nat} {c : RegCell} {fwd : Option Fwd} (hc : s.regs[r]? = some c)
    (hslot : slotOk s.slots fwd = true) (word : Word) (load : Bool) :
    regUpdate r (some (.word word)) (some (.bit load)) fwd s =
      .next (((s.setReg r ⟨c.cur, if load then word else c.cur⟩).forward r fwd c.cur).emit (.word c.cur)) :=
  (regUpdate_next ..).mpr ⟨hslot, c, word, load, hc, rfl, rfl, rfl⟩

theorem exec_bitTick_eq {b : Nat} {c : BitCell} (hc : s.bits[b]? = some c) :
    exec (.bitTick b) s = .next ((s.setBit b ⟨c.pend, c.pend⟩).emit .nothing) :=
  (bitTick_next ..).mpr ⟨c, hc, rfl⟩

theorem exec_regTick_eq {r : Nat} {c : RegCell} (hc : s.regs[r]? = some c) :
    exec (.regTick r) s = .next ((s.setReg r ⟨c.pend, c.pend⟩).emit .nothing) :=
  (regTick_next ..).mpr ⟨c, hc, rfl⟩

theorem exec_regRow (load : Bool) (r : Nat) (word : Word) (fwd : Option Fwd) :
    exec (regRow load r word fwd) s = regUpdate r (some (.word word)) (some (.bit load)) fwd s := by
  cases load <;> rfl

end

/-- Settles O17: the Bit's Update under either load bit. -/
theorem bitUpdateReturnsCurrentAndStages : Obligations.BitUpdateReturnsCurrentAndStages :=
  fun _ input _ _ hc => ⟨bitUpdate_eq hc input false, bitUpdate_eq hc input true⟩

/-- Settles O18: each Tick writes its own cell with what it has staged. -/
theorem tickCommitsWhatIsStaged : Obligations.TickCommitsWhatIsStaged :=
  ⟨fun _ _ _ => exec_bitTick_eq, fun _ _ _ => exec_regTick_eq⟩

/-- Settles O19: the Register's Update under either load bit, forwarding or not. -/
theorem registerUpdateReturnsCurrentAndStages : Obligations.RegisterUpdateReturnsCurrentAndStages := by
  intro r word fwd s c hc hslot
  refine ⟨(regUpdate_eq hc hslot word false).trans ?_, (regUpdate_eq hc hslot word true).trans ?_⟩
  all_goals cases fwd <;> rfl

/-! ### The laws of the Register (R129) -/

theorem execAll_cons {i : Instr} {rest : List Instr} {s t u : State} (h : exec i s = .next t)
    (hrest : execAll rest t = .next u) : execAll (i :: rest) s = .next u :=
  (execAll_cons_next ..).mpr ⟨t, h, hrest⟩

section
variable {r : Nat} {s : State} {c : RegCell}

/-- What a HOLD or LOAD without forwarding comes to, for the operations after it. -/
theorem regRow_run (hc : s.regs[r]? = some c) (load : Bool) (word : Word) :
    ∃ t, exec (regRow load r word none) s = .next t ∧ t.outs = .word c.cur :: s.outs ∧
      t.regs[r]? = some ⟨c.cur, if load then word else c.cur⟩ ∧ ∀ k, k ≠ r → t.regs[k]? = s.regs[k]? :=
  ⟨_, (exec_regRow ..).trans (regUpdate_eq hc rfl word load), rfl, by simp [List.getElem?_set_self', hc],
    fun _ hk => by simp [List.getElem?_set_ne hk.symm]⟩

/-- What a Tick comes to, for the operations after it. -/
theorem regTick_run (hc : s.regs[r]? = some c) :
    ∃ t, exec (.regTick r) s = .next t ∧ t.outs = .nothing :: s.outs ∧ t.regs[r]? = some ⟨c.pend, c.pend⟩ ∧
      ∀ k, k ≠ r → t.regs[k]? = s.regs[k]? :=
  ⟨_, exec_regTick_eq hc, rfl, by simp [List.getElem?_set_self', hc], fun _ hk => List.getElem?_set_ne hk.symm⟩

/-- A read returns the committed word. -/
theorem read_reg {w : Word} (hw : (s.regs[r]?).map RegCell.cur = some w) (load : Bool) (word : Word) :
    outOf (exec (regRow load r word none) s) = some (.word w) := by
  obtain ⟨c, hc, rfl⟩ := Option.map_eq_some_iff.mp hw
  obtain ⟨t, hrun, hout, -, -⟩ := regRow_run hc load word
  simp [outOf, nextOf, hrun, hout]

/-- A Register with nothing new staged keeps its word under Ticks and HOLDs. -/
theorem holds_keep {w : Word} {more : List Instr} (hw : s.regs[r]? = some ⟨w, w⟩)
    (hmore : ∀ i ∈ more, i = .regTick r ∨ ∃ v, i = regRow false r v none) :
    ∃ t, execAll more s = .next t ∧ t.regs[r]? = some ⟨w, w⟩ := by
  induction more generalizing s with
  | nil => exact ⟨s, rfl, hw⟩
  | cons i rest ih =>
    obtain ⟨s', hrun, hw'⟩ : ∃ s', exec i s = .next s' ∧ s'.regs[r]? = some ⟨w, w⟩ := by
      obtain rfl | ⟨v, rfl⟩ := hmore i List.mem_cons_self
      · obtain ⟨s', hrun, -, hcell, -⟩ := regTick_run hw
        exact ⟨s', hrun, hcell⟩
      · obtain ⟨s', hrun, -, hcell, -⟩ := regRow_run hw false v
        exact ⟨s', hrun, hcell⟩
    obtain ⟨t, ht, hcell⟩ := ih hw' fun j hj => hmore j (List.mem_cons_of_mem i hj)
    exact ⟨t, execAll_cons hrun ht, hcell⟩

/-- Law (a): a word loaded and ticked is returned. -/
theorem load_tick_read (hc : s.regs[r]? = some c) (w u : Word) :
    outOf (execAll [regRow true r w none, .regTick r, regRow false r u none] s) = some (.word w) := by
  obtain ⟨s1, h1, -, hc1, -⟩ := regRow_run hc true w
  obtain ⟨s2, h2, -, hc2, -⟩ := regTick_run hc1
  obtain ⟨s3, h3, hout, -, -⟩ := regRow_run hc2 false u
  rw [execAll_cons h1 (execAll_cons h2 (execAll_cons h3 rfl))]
  simp [outOf, nextOf, hout]

/-- Law (c): a HOLD, and Ticks and HOLDs after it, leave the word. -/
theorem hold_keeps (hc : s.regs[r]? = some c) (u : Word) {more : List Instr}
    (hmore : ∀ i ∈ more, i = .regTick r ∨ ∃ v, i = regRow false r v none) :
    ∃ t, execAll (regRow false r u none :: more) s = .next t ∧ (t.regs[r]?).map RegCell.cur = some c.cur := by
  obtain ⟨s1, h1, -, hc1, -⟩ := regRow_run hc false u
  obtain ⟨t, ht, hct⟩ := holds_keep (w := c.cur) hc1 hmore
  exact ⟨t, execAll_cons h1 ht, by rw [hct]; rfl⟩

/-- Law (d): of a LOAD and an Update after it the second decides what the Tick commits. -/
theorem last_write_wins (hc : s.regs[r]? = some c) (w u : Word) (load : Bool) :
    ∃ t, execAll [regRow true r w none, regRow load r u none, .regTick r] s = .next t ∧
      (t.regs[r]?).map RegCell.cur = some (if load then u else c.cur) := by
  obtain ⟨s1, h1, -, hc1, -⟩ := regRow_run hc true w
  obtain ⟨s2, h2, -, hc2, -⟩ := regRow_run hc1 load u
  obtain ⟨s3, h3, -, hc3, -⟩ := regTick_run hc2
  exact ⟨s3, execAll_cons h1 (execAll_cons h2 (execAll_cons h3 rfl)), by rw [hc3]; rfl⟩

/-- Law (e): each of two Registers is loaded with the other's word in one cycle. -/
theorem registers_exchange {q : Nat} {d : RegCell} (u : Word) (hc : s.regs[r]? = some c) (hd : s.regs[q]? = some d)
    (hne : r ≠ q) :
    ∃ t, execAll [regRow false r u none, regRow true q c.cur none, regRow true r d.cur none, .regTick r, .regTick q] s
        = .next t ∧
      t.outs.take 5 = [.nothing, .nothing, .word c.cur, .word d.cur, .word c.cur] ∧
      (t.regs[r]?).map RegCell.cur = some d.cur ∧ (t.regs[q]?).map RegCell.cur = some c.cur := by
  obtain ⟨s1, h1, out1, r1, keep1⟩ := regRow_run hc false u
  obtain ⟨s2, h2, out2, q2, keep2⟩ := regRow_run ((keep1 q hne.symm).trans hd) true c.cur
  obtain ⟨s3, h3, out3, r3, keep3⟩ := regRow_run ((keep2 r hne).trans r1) true d.cur
  obtain ⟨s4, h4, out4, r4, keep4⟩ := regTick_run r3
  obtain ⟨s5, h5, out5, q5, keep5⟩ := regTick_run
    (((keep4 q hne.symm).trans (keep3 q hne.symm)).trans q2)
  refine ⟨s5, execAll_cons h1 (execAll_cons h2 (execAll_cons h3 (execAll_cons h4 (execAll_cons h5 rfl)))), ?_, ?_, ?_⟩
  · rw [out5, out4, out3, out2, out1]; rfl
  · rw [keep5 r hne, r4]; rfl
  · rw [q5]; rfl

end

/-- Settles O20: the five laws. -/
theorem registerLawsHold : Obligations.RegisterLawsHold :=
  ⟨fun r s c w w' u more hc hmore => ⟨load_tick_read hc w u, read_reg (by rw [hc]; rfl) true w, hold_keeps hc u hmore,
    last_write_wins hc w w' true, last_write_wins hc w u false⟩,
    fun _ _ _ _ _ u => registers_exchange u⟩

/-- Settles O23: lane `i` of the words that Update and Tick write and return. -/
theorem registerIsSixteenBits : Obligations.RegisterIsSixteenBits := by
  intro c word load i _
  refine ⟨⟨_, _, RegCell.update_eq c word load, ?_, ?_⟩, ?_⟩
  · cases load <;> simp [RegCell.lane, BitCell.update_eq]
  · rw [BitCell.update_eq]; rfl
  · rw [RegCell.tick_eq]; rfl

/-! ### What an operation commits and what it stages (R24, R57) -/

/-- Writing an element with another that reads alike does not show in what is read. -/
theorem map_set_of_getElem? {α β : Type} {f : α → β} {l : List α} {i : Nat} {e e' : α} (h : l[i]? = some e)
    (hf : f e' = f e) : (l.set i e').map f = l.map f := by
  rw [List.map_set, hf, set_of_getElem? (by rw [List.getElem?_map, h]; rfl)]

theorem isTick_of_updatesReg {r : Nat} {i : Instr} (h : updatesReg r i = true) : isTick i = false := by
  unfold updatesReg at h
  split at h
  · rfl
  · rfl
  · cases h

theorem isTick_of_updatesBit {b : Nat} {i : Instr} (h : updatesBit b i = true) : isTick i = false := by
  unfold updatesBit at h
  split at h
  · rfl
  · rfl
  · cases h

section
variable {i : Instr} {s t : State}

/-- Any operation but a Tick leaves every committed value. -/
theorem exec_committed (hi : isTick i = false) (h : exec i s = .next t) : t.committed = s.committed := by
  cases exec_change h with
  | stageBit b c input load op found => simp [State.committed, map_set_of_getElem? found]
  | stageReg r c word load fwd op found => simp [State.committed, map_set_of_getElem? found]
  | commitBit b c op found => subst op; cases hi
  | commitReg r c op found => subst op; cases hi
  | output => rfl
  | settle => rfl

/-- A Tick leaves every staged value. -/
theorem exec_staged (hi : isTick i = true) (h : exec i s = .next t) : t.staged = s.staged := by
  cases exec_change h with
  | commitBit b c op found => simp [State.staged, map_set_of_getElem? found]
  | commitReg r c op found => simp [State.staged, map_set_of_getElem? found]
  | stageBit b c input load op found => rw [isTick_of_updatesBit op] at hi; cases hi
  | stageReg r c word load fwd op found => rw [isTick_of_updatesReg op] at hi; cases hi
  | output => rfl
  | settle => rfl

end

/-- Settles O24: by the six ways in which an operation changes the state. -/
theorem onlyTicksCommit : Obligations.OnlyTicksCommit := fun _ _ _ h => ⟨(exec_committed · h), (exec_staged · h)⟩

@[simp] theorem getD_getD {α : Type} (o : Option α) (d : α) : o.getD (o.getD d) = o.getD d := by cases o <;> rfl

/-- Driving the same Signals again changes no latch. -/
theorem drive_drive (l : Latches) (o : AluOpts) : (l.drive o).drive o = l.drive o := by simp [Latches.drive]

/-- Settles O25: what an Update stages, latches and returns does not depend on what it stages or latches. -/
theorem repeatedUpdateIsIdempotent : Obligations.RepeatedUpdateIsIdempotent := by
  intro i s t h hi
  cases form i with
  | gate ports op run =>
    obtain ⟨result, hrun⟩ := run
    obtain ⟨o, hresult, ho⟩ := (check_next ..).mp (hrun s ▸ h)
    cases ho
    exact ⟨_, (hrun _).trans (congrArg (check · _) hresult), rfl, rfl, rfl, rfl⟩
  | bit b input load op =>
    subst op
    rw [exec_bit] at h
    obtain ⟨c, iv, lv, hc, rfl, hload, rfl⟩ := (bitUpdate_next ..).mp h
    cases hload
    exact ⟨_, (exec_bit b _ load _).trans (bitUpdate_eq (c := ⟨c.cur, if load then iv else c.cur⟩)
      (by simp [List.getElem?_set_self', hc]) iv load), rfl, List.set_set .., rfl, rfl⟩
  | reg r word fwd load op =>
    subst op
    rw [exec_reg] at h
    obtain ⟨hslot, c, ww, lv, hc, rfl, hload, rfl⟩ := (regUpdate_next ..).mp h
    cases hload
    exact ⟨_, (exec_reg r _ fwd load _).trans (regUpdate_eq (c := ⟨c.cur, if load then ww else c.cur⟩)
      (by simp [List.getElem?_set_self', hc]) (by simpa using hslot) ww load), by simp, by simp, by simp, rfl⟩
  | bitTick b op => subst op; cases hi
  | regTick r op => subst op; cases hi
  | alu c a x y op =>
    subst op
    obtain ⟨l, p, hl, hp, rfl⟩ := (exec_aluOfCtl_next ..).mp h
    have hagain : p.latches.drive (rowOpts c x y) = p.latches := by rw [← hp, drive_drive]
    exact ⟨_, (exec_aluOfCtl_next ..).mpr ⟨p.latches, p, by simp [List.getElem?_set_self', hl], hagain, rfl⟩, rfl, rfl,
      List.set_set .., rfl⟩

/-! ### Phases (R60, R244) -/

theorem execAll_committed {is : List Instr} {s t : State} (hno : is.all (fun i => !isTick i) = true)
    (h : execAll is s = .next t) : t.committed = s.committed :=
  execAll_keeps State.committed (fun hi => exec_committed (by simpa using hi)) hno h

section
variable {s t : State} (h : t.committed = s.committed)
include h

theorem reg_cur_of_committed (r : Nat) : (t.regs[r]?).map RegCell.cur = (s.regs[r]?).map RegCell.cur := by
  rw [← List.getElem?_map, ← List.getElem?_map]
  exact congrArg (fun read : List Word × List Bool => read.1[r]?) h

theorem bit_cur_of_committed (b : Nat) : (t.bits[b]?).map BitCell.cur = (s.bits[b]?).map BitCell.cur := by
  rw [← List.getElem?_map, ← List.getElem?_map]
  exact congrArg (fun read : List Word × List Bool => read.2[b]?) h

end

/-- A read of a Bit returns the committed value. -/
theorem read_bit {b : Nat} {s : State} {v : Bool} (hv : (s.bits[b]?).map BitCell.cur = some v) (input load : Bool) :
    outOf (bitUpdate b (some (.bit input)) (some (.bit load)) s) = some (.bit v) := by
  obtain ⟨c, hc, rfl⟩ := Option.map_eq_some_iff.mp hv
  rw [bitUpdate_eq hc, outOf_next_emit]

/-- Settles O27: the Updates of a phase commit nothing, and a read returns what is committed. -/
theorem readsOfAPhaseAreItsSnapshot : Obligations.ReadsOfAPhaseAreItsSnapshot := by
  intro is s t hno hrun
  have hkeep := execAll_committed hno hrun
  refine ⟨hkeep, fun r word load c hc => read_reg ?_ load word, fun b input c hc => ?_⟩
  · rw [reg_cur_of_committed hkeep, hc]; rfl
  · have hv : (t.bits[b]?).map BitCell.cur = some c.cur := by rw [bit_cur_of_committed hkeep, hc]; rfl
    exact ⟨read_bit hv input false, read_bit hv input true⟩

theorem ticksReg_of_isTick {r : Nat} {i : Instr} (h : isTick i = false) : ticksReg r i = false := by
  unfold ticksReg
  split
  · cases h
  · rfl

/-- Settles O28: between LOAD and edge the Register keeps committed and staged word, the edge commits the staged one,
and the next cycle reads it. -/
theorem stagedWordIsReadAfterTheEdge : Obligations.StagedWordIsReadAfterTheEdge := by
  intro r c w word load fwd now next s s1 s2 s3 s4 hc hload hnow hrun hedge hnext hrun'
  have hcur : (s.regs[r]?).map RegCell.cur = some c.cur := by rw [hc]; rfl
  obtain ⟨-, hstaged⟩ := regRow_stages (load := true) hcur hload
  have hkeep : s2.regs[r]? = some ⟨c.cur, w⟩ := by
    refine (execAll_regs ?_ hrun).trans hstaged
    simp only [List.all_eq_true, Bool.and_eq_true, Bool.not_eq_true'] at hnow ⊢
    exact fun i hi => ⟨ticksReg_of_isTick (hnow i hi).1, (hnow i hi).2⟩
  obtain rfl : s2.globalTick = s3 := Host.Outcome.next.inj hedge
  constructor
  · exact read_reg (by rw [hkeep]; rfl) load word
  · refine read_reg ?_ load word
    rw [reg_cur_of_committed (execAll_committed hnext hrun')]
    simp [hkeep, RegCell.tick_eq]

/-! ### The global edge (R81, R239) -/

@[simp] theorem RegCell.tick_tick (c : RegCell) : c.tick.tick = c.tick := by simp [RegCell.tick_eq]

@[simp] theorem BitCell.tick_tick (c : BitCell) : c.tick.tick = c.tick := rfl

/-- `u` is `s` with each element ticked that has its Tick among `ticks`, and nothing else of the block changed. -/
structure TickedBy (ticks : List Instr) (s u : State) : Prop where
  regs : ∀ k, u.regs[k]? = if .regTick k ∈ ticks then (s.regs[k]?).map RegCell.tick else s.regs[k]?
  bits : ∀ k, u.bits[k]? = if .bitTick k ∈ ticks then (s.bits[k]?).map BitCell.tick else s.bits[k]?
  alus : u.alus = s.alus
  events : u.events = s.events
  todo : u.todo = s.todo
  slots : u.slots = s.slots

/-- The operation is a Tick of an element of the circuit. -/
def TicksElement (c : Circuit) (i : Instr) : Prop :=
  (∃ r, r < c.nreg ∧ i = .regTick r) ∨ ∃ b, b < c.nbit ∧ i = .bitTick b

/-- One Tick. -/
theorem exec_ticksElement {s : State} {i : Instr} (h : TicksElement s.circuit i) :
    ∃ t, exec i s = .next t ∧ TickedBy [i] s t := by
  obtain ⟨r, hr, rfl⟩ | ⟨b, hb, rfl⟩ := h
  · have hc : s.regs[r]? = some s.regs[r] := List.getElem?_eq_getElem hr
    refine ⟨_, exec_regTick_eq hc, fun k => ?_, fun k => by simp, rfl, rfl, rfl, rfl⟩
    by_cases hk : k = r
    · subst hk
      simp [List.getElem?_set_self', hc, RegCell.tick_eq]
    · simp [hk, List.getElem?_set_ne (Ne.symm hk)]
  · have hc : s.bits[b]? = some s.bits[b] := List.getElem?_eq_getElem hb
    refine ⟨_, exec_bitTick_eq hc, fun k => by simp, fun k => ?_, rfl, rfl, rfl, rfl⟩
    by_cases hk : k = b
    · subst hk
      simp [List.getElem?_set_self', hc, BitCell.tick]
    · simp [hk, List.getElem?_set_ne (Ne.symm hk)]

/-- Ticks of elements complete and tick what they name, in whatever order and however often. -/
theorem execAll_ticks {s : State} {ticks : List Instr} (h : ∀ i ∈ ticks, TicksElement s.circuit i) :
    ∃ u, execAll ticks s = .next u ∧ TickedBy ticks s u := by
  induction ticks generalizing s with
  | nil => exact ⟨s, rfl, fun k => by simp, fun k => by simp, rfl, rfl, rfl, rfl⟩
  | cons i rest ih =>
    obtain ⟨t, hrun, ht⟩ := exec_ticksElement (h i List.mem_cons_self)
    have hcircuit : t.circuit = s.circuit := (exec_circuit hrun).2
    obtain ⟨u, hrest, hu⟩ := ih fun j hj => hcircuit ▸ h j (List.mem_cons_of_mem i hj)
    refine ⟨u, execAll_cons hrun hrest, fun k => ?_, fun k => ?_, hu.alus.trans ht.alus, hu.events.trans ht.events,
      hu.todo.trans ht.todo, hu.slots.trans ht.slots⟩
    · rw [hu.regs, ht.regs]
      by_cases hi : Instr.regTick k = i <;> by_cases hmem : Instr.regTick k ∈ rest <;>
        simp [hi, hmem, Function.comp_def]
    · rw [hu.bits, ht.bits]
      by_cases hi : Instr.bitTick k = i <;> by_cases hmem : Instr.bitTick k ∈ rest <;>
        simp [hi, hmem, Function.comp_def]

/-- Settles O26: both tick every element: the Ticks name each of them, and ticking one twice ticks it once. -/
theorem globalEdgeIsEveryTickInAnyOrder : Obligations.GlobalEdgeIsEveryTickInAnyOrder := by
  intro s ticks hperm
  have hmem (i) : i ∈ ticks ↔ TicksElement s.circuit i := by
    rw [hperm.mem_iff]
    simp [TicksElement, State.circuit, eq_comm]
  obtain ⟨u, hrun, hu⟩ := execAll_ticks fun i hi => (hmem i).mp hi
  refine ⟨_, u, rfl, hrun, List.ext_getElem? fun k => ?_, List.ext_getElem? fun k => ?_, hu.alus.symm, hu.events.symm,
    hu.todo.symm, hu.slots.symm⟩
  · rw [globalTick_regs, List.getElem?_map, hu.regs]
    by_cases hk : k < s.regs.length
    · rw [if_pos ((hmem _).mpr (.inl ⟨k, hk, rfl⟩))]
    · simp [List.getElem?_eq_none (Nat.le_of_not_lt hk)]
  · rw [globalTick_bits, List.getElem?_map, hu.bits]
    by_cases hk : k < s.bits.length
    · rw [if_pos ((hmem _).mpr (.inr ⟨k, hk, rfl⟩))]
    · simp [List.getElem?_eq_none (Nat.le_of_not_lt hk)]

/-! ### A Tick before any Update (R234) -/

theorem setReg_of_getElem? {s : State} {r : Nat} {c : RegCell} (h : s.regs[r]? = some c) : s.setReg r c = s := by
  rw [State.setReg, set_of_getElem? h]

theorem setBit_of_getElem? {s : State} {b : Nat} {c : BitCell} (h : s.bits[b]? = some c) : s.setBit b c = s := by
  rw [State.setBit, set_of_getElem? h]

/-- The edge changes no element as constructed. -/
theorem globalTick_construct (c : Circuit) : (State.construct c).globalTick = (State.construct c).emit .nothing := by
  have hregs : (State.construct c).regs.map RegCell.tick = (State.construct c).regs :=
    map_build _ _ _ fun k => by rw [RegCell.tick_eq]; rfl
  have hbits : (State.construct c).bits.map BitCell.tick = (State.construct c).bits := map_build _ _ _ fun k => rfl
  rw [State.globalTick, hregs, hbits]

/-- Settles O51: construction stages what it commits, so committing changes nothing, and a read returns it. -/
theorem tickBeforeUpdateChangesNothing : Obligations.TickBeforeUpdateChangesNothing := by
  intro c r b word input load hr hb s
  have hreg : s.regs[r]? = _ := construct_regs c hr
  have hbit : s.bits[b]? = _ := construct_bits c hb
  refine ⟨?_, ?_, ?_, read_reg (by rw [hreg]; rfl) load word, ?_, ?_⟩
  · rw [exec_regTick_eq hreg, setReg_of_getElem? hreg]; rfl
  · rw [exec_bitTick_eq hbit, setBit_of_getElem? hbit]; rfl
  · exact congrArg Host.Outcome.next (globalTick_construct c)
  · exact read_bit (by rw [hbit]; rfl) input false
  · exact read_bit (by rw [hbit]; rfl) input true

end Sys2Proof.Machine
end

section
/-! Proofs about the ALU (43_alu_pipeline.md, 44_alu_operations.md): the stages in closed form, the function of every
control word, the flags, and which control words cannot be told apart. -/

namespace Sys2Proof.Machine

/-! ### The stages in closed form -/

/-- What stages 1 and 2 make of an operand: zeroed by the first flag, then complemented by the second (R142, R143). -/
def conditioned : Bool → Bool → Word → Word
  | false, false, w => w
  | false, true, w => ~~~w
  | true, false, _ => 0#16
  | true, true, _ => -1#16

/-- What stages 3 and 4 make of two operands: the gate `f` picks, complemented by `no` (R144, R145). -/
def combined : Bool → Bool → Word → Word → Word
  | false, false, x, y => x &&& y
  | false, true, x, y => ~~~(x &&& y)
  | true, false, x, y => x + y
  | true, true, x, y => ~~~(x + y)

theorem x2_conditioned (p : AluIn) : p.x2 = conditioned p.zx p.nx p.x := by
  rw [p.x2_eq]
  cases p.zx <;> cases p.nx <;> simp [conditioned]

theorem y2_conditioned (p : AluIn) : p.y2 = conditioned p.zy p.ny p.y := by
  rw [p.y2_eq]
  cases p.zy <;> cases p.ny <;> simp [conditioned]

theorem out_combined (p : AluIn) : p.out = combined p.f p.no p.x2 p.y2 := by
  rw [p.out_eq, p.raw_eq]
  cases p.f <;> cases p.no <;> rfl

/-- The function of a control word, by its flags. -/
theorem aluFn_eq (c : Ctl) (x y : Word) : aluFn c x y = combined (ctlFlag c 1) (ctlFlag c 0)
    (conditioned (ctlFlag c 5) (ctlFlag c 4) x) (conditioned (ctlFlag c 3) (ctlFlag c 2) y) := by
  rw [aluFn, out_combined, x2_conditioned, y2_conditioned]
  rfl

/-- What an Update returns: the value after stage 4, whether it is zero, its sign bit. -/
theorem outputs_eq (p : AluIn) : p.outputs = .alu p.out (decide (p.out = 0#16)) (p.out.getLsbD 15) := by
  rw [AluIn.outputs, flagZr_eq, flagNg]

/-! ### The function of every control word (R161 to R179) -/

/-- An operation that is the row of these flags computes what the stages make of its operands under them. -/
theorem computes_row {mk : Nat → Option Sig → Option Sig → Instr} {zx nx zy ny f no : Bool} {fn : Word → Word → Word}
    (hmk : ∀ a x y, mk a x y = aluOfCtl (ctlOfFlags zx nx zy ny f no) a x y)
    (hfn : ∀ x y, combined f no (conditioned zx nx x) (conditioned zy ny y) = fn x y) :
    Computes mk zx nx zy ny f no fn := by
  intro a x y s l xw yw hl hx hy
  obtain ⟨h5, h4, h3, h2, h1, h0⟩ := ctlFlag_ctlOfFlags zx nx zy ny f no
  have hin : AluIn.ofCtl (ctlOfFlags zx nx zy ny f no) xw yw = ⟨xw, yw, zx, nx, zy, ny, f, no⟩ := by
    rw [AluIn.ofCtl, h5, h4, h3, h2, h1, h0]
  have hout : AluIn.out ⟨xw, yw, zx, nx, zy, ny, f, no⟩ = fn xw yw := by
    rw [out_combined, x2_conditioned, y2_conditioned]
    exact hfn xw yw
  rw [hmk, exec_aluOfCtl, aluRow_eq _ a x y s l xw yw hl hx hy, hin, outputs_eq, hout]
  rfl

/-- The word of all ones, as `simp` writes it, is neutral for AND. -/
@[simp] theorem ones_and (w : Word) : 65535#16 &&& w = w := BitVec.allOnes_and

@[simp] theorem and_ones (w : Word) : w &&& 65535#16 = w := BitVec.and_allOnes

/-- Settles O29: sums of two constants. -/
theorem constantRowsComputeTheirConstants : Obligations.ConstantRowsComputeTheirConstants := by
  refine ⟨?_, ?_, ?_⟩
  all_goals exact computes_row (fun _ _ _ => rfl) fun _ _ => by simp [combined, conditioned]

/-- Settles O30: the other operand is the word of all ones, neutral for AND. -/
theorem passAndComplementRowsCompute : Obligations.PassAndComplementRowsCompute := by
  refine ⟨?_, ?_, ?_, ?_⟩
  all_goals exact computes_row (fun _ _ _ => rfl) fun x y => by simp [combined, conditioned]

/-- Settles O31: the complement of a word less one is its negation. -/
theorem negationRowsNegate : Obligations.NegationRowsNegate := by
  refine ⟨computes_row (fun _ _ _ => rfl) fun x _ => ?_, computes_row (fun _ _ _ => rfl) fun _ y => ?_⟩
  all_goals
    simp only [combined, conditioned, not_eq_neg_sub_one]
    ring

/-- Settles O32: the operand, complemented or not, less one, complemented again or not. -/
theorem incrementAndDecrementRowsCompute : Obligations.IncrementAndDecrementRowsCompute := by
  refine ⟨computes_row (fun _ _ _ => rfl) fun x _ => ?_, computes_row (fun _ _ _ => rfl) fun _ y => ?_,
    computes_row (fun _ _ _ => rfl) fun x _ => ?_, computes_row (fun _ _ _ => rfl) fun _ y => ?_⟩
  all_goals
    simp only [combined, conditioned, not_eq_neg_sub_one]
    ring

/-- Settles O33: a difference is the complement of the sum with one operand complemented. -/
theorem sumAndDifferenceRowsCompute : Obligations.SumAndDifferenceRowsCompute := by
  refine ⟨computes_row (fun _ _ _ => rfl) fun _ _ => rfl, computes_row (fun _ _ _ => rfl) fun x y => ?_,
    computes_row (fun _ _ _ => rfl) fun x y => ?_⟩
  all_goals
    simp only [combined, conditioned, not_eq_neg_sub_one]
    ring

/-- Settles O34: OR by De Morgan. -/
theorem andAndOrRowsCompute : Obligations.AndAndOrRowsCompute :=
  ⟨computes_row (fun _ _ _ => rfl) fun _ _ => rfl,
    computes_row (fun _ _ _ => rfl) fun x y => by simp [combined, conditioned, BitVec.not_and]⟩

/-- Settles O35: in each row an operand is a constant that is neutral or absorbing for the gate picked. -/
theorem aliasWordsCompute : Obligations.AliasWordsCompute := by
  refine ⟨?_, ?_, ?_, ?_, ?_, ?_, ?_, ?_, ?_, ?_, ?_, ?_, ?_, ?_, ?_, ?_,
    ?_, ?_, ?_, ?_, ?_, ?_, ?_, ?_, ?_, ?_, ?_, ?_, ?_, ?_, ?_, ?_⟩
  all_goals exact computes_row (fun _ _ _ => rfl) fun x y => by simp [combined, conditioned]

/-- Settles O36: the rows of AND by De Morgan, those of the sum in the ring of words. -/
theorem furtherWordsCompute : Obligations.FurtherWordsCompute := by
  have two : (2#16 : Word) = 1#16 + 1#16 := rfl
  refine ⟨computes_row (fun _ _ _ => rfl) fun _ _ => rfl, computes_row (fun _ _ _ => rfl) fun x y => ?_,
    computes_row (fun _ _ _ => rfl) fun _ _ => rfl,
    computes_row (fun _ _ _ => rfl) fun x y => by simp [combined, conditioned, BitVec.not_and],
    computes_row (fun _ _ _ => rfl) fun x y => ?_, computes_row (fun _ _ _ => rfl) fun _ _ => rfl,
    computes_row (fun _ _ _ => rfl) fun x y => by simp [combined, conditioned, BitVec.not_and],
    computes_row (fun _ _ _ => rfl) fun x y => ?_,
    computes_row (fun _ _ _ => rfl) fun x y => by simp [combined, conditioned, BitVec.not_or],
    computes_row (fun _ _ _ => rfl) fun x y => ?_, computes_row (fun _ _ _ => rfl) fun x y => ?_,
    computes_row (fun _ _ _ => rfl) fun x _ => ?_, computes_row (fun _ _ _ => rfl) fun _ y => ?_,
    computes_row (fun _ _ _ => rfl) fun _ _ => ?_⟩
  all_goals
    simp only [combined, conditioned, not_eq_neg_sub_one, two]
    ring

/-! ### ALU.Update with any option list (R141 to R145, R151) -/

/-- Settles O37: on valid latches the five stages, in closed form; otherwise the port checks in order. -/
theorem aluUpdateRunsTheFiveStages : Obligations.AluUpdateRunsTheFiveStages := by
  intro a o s l hl
  refine ⟨fun p hp => ?_, fun f => ?_, ?_⟩
  · intro x1 y1 x2 y2 raw out
    have hout : p.out = out := by rw [p.out_eq, p.raw_eq, p.x2_eq, p.y2_eq]
    rw [runLine_optsLine_of_latches a o s l p hl hp, outputs_eq, hout]
    rfl
  · rw [runLine_optsLine_eq]
    exact (raisesFirst_aluUpdate hl o).1 f
  · rintro x y zx nx zy ny f no l' rfl
    exact ⟨rfl, rfl⟩

/-- Settles O41: the shapes are the four picks of gate and complement, the operands the four picks of their flags. -/
theorem outputHasTheClosedForm : Obligations.OutputHasTheClosedForm := by
  intro p
  have hfour (zero neg : Bool) (w : Word) : conditioned zero neg w = w ∨ conditioned zero neg w = ~~~w ∨
      conditioned zero neg w = 0#16 ∨ conditioned zero neg w = -1#16 := by
    cases zero <;> cases neg <;> simp [conditioned]
  refine ⟨x2_conditioned p ▸ hfour _ _ _, y2_conditioned p ▸ hfour _ _ _, fun hf hno => ?_, fun hf hno => ?_,
    fun hf hno => ?_, fun hf hno => ?_, not_eq_neg_sub_one⟩
  all_goals rw [out_combined, hf, hno, combined]
  · exact ⟨rfl, BitVec.not_and⟩
  · refine ⟨rfl, ?_⟩
    rw [not_eq_neg_sub_one]
    ring

/-- Settles O42: each stage is a multiplexer, and the ports are checked whatever the flags say. -/
theorem aluStagesConditionSelectAndNegate : Obligations.AluStagesConditionSelectAndNegate := by
  refine ⟨fun p => ?_, fun c a y s l hl => ?_, fun c a x xw s l hl hx => ?_⟩
  · refine ⟨⟨rfl, rfl⟩, ?_, ?_, ?_, ?_, ⟨rfl, rfl⟩, ?_, ?_, ?_, ?_, ?_, ?_, ?_, ?_, rfl, ?_, ?_, rfl, ?_, ?_⟩
    all_goals
      intros
      simp [AluIn.x1, AluIn.y1, x2_conditioned, y2_conditioned, AluIn.raw_eq, AluIn.out_eq, mux16_eq, zero16,
        conditioned, *]
  · rw [exec_aluOfCtl]
    exact ((raisesFirst_aluUpdate hl _).1 _).mpr rfl
  · rw [exec_aluOfCtl]
    refine ((raisesFirst_aluUpdate hl _).1 _).mpr ?_
    simp [firstFault, aluPorts, Latches.drive, rowOpts, hx, PortCheck.fault, List.findSome?_cons]

/-! ### Flags (R146, R150, R181) -/

/-- Settles O39: the two bytes' disjunctions are what OR8WAY returns, and their joint says that every bit is 0. -/
theorem zeroFlagReadsTheOutputBits : Obligations.ZeroFlagReadsTheOutputBits := by
  intro out
  refine ⟨⟨_, _, fun s => by rw [exec_or8way_bit, outOf_next_emit], fun s => by rw [exec_or8way_bit, outOf_next_emit],
    rfl⟩, ?_⟩
  rw [flagZr_eq, decide_eq_true_iff]
  constructor
  · rintro rfl i _
    exact BitVec.getLsbD_zero
  · intro hbits
    exact BitVec.eq_of_getLsbD_eq fun i hi => (hbits i hi).trans BitVec.getLsbD_zero.symm

theorem flagZr_iff (out : Word) : flagZr out = true ↔ out = 0#16 := by rw [flagZr_eq, decide_eq_true_iff]

/-- The two flags are never set together: zero has no sign bit. -/
theorem flagNg_of_flagZr {out : Word} (h : flagZr out = true) : flagNg out = false := by
  rw [(flagZr_iff out).mp h]
  rfl

/-- The flags tell the output's sign: zero, negative, positive. -/
theorem flags_sign (out : Word) :
    ((flagZr out, flagNg out) = (true, false) ↔ out = 0#16) ∧
    ((flagZr out, flagNg out) = (false, true) ↔ out.toInt < 0) ∧
    ((flagZr out, flagNg out) = (false, false) ↔ 0 < out.toInt) := by
  have hzero : out = 0#16 ↔ out.toInt = 0 := by rw [← BitVec.toInt_inj]; rfl
  have hzr : flagZr out = true ↔ out.toInt = 0 := (flagZr_iff out).trans hzero
  simp only [Prod.mk.injEq, ← Bool.not_eq_true, hzr, flagNg_iff_toInt_neg, hzero]
  refine ⟨?_, ?_, ?_⟩ <;> omega

/-- Latches hold one set of values. -/
theorem latches_injective {p q : AluIn} (h : p.latches = q.latches) : p = q :=
  Except.ok.inj ((latches_read p).symm.trans ((Latches.read_eq_ok _ q).mpr h))

/-- Settles O38: the flags are those of the output, and the outputs those of the latched values. -/
theorem flagsFollowTheOutput : Obligations.FlagsFollowTheOutput := by
  intro c a a' x y x' y' s s' t t' l l' h hl
  obtain ⟨k, p, hk, hp, rfl⟩ := (exec_aluOfCtl_next ..).mp h
  obtain rfl : l = k := Option.some.inj (hl.symm.trans hk)
  obtain ⟨hzero, hneg, hpos⟩ := flags_sign p.out
  refine ⟨⟨p.out, flagZr p.out, flagNg p.out, rfl, flagZr_iff p.out, Iff.rfl, flagNg_of_flagZr, hzero, hneg, hpos⟩,
    fun hl' hsame h' => ?_⟩
  obtain ⟨k', p', hk', hp', rfl⟩ := (exec_aluOfCtl_next ..).mp h'
  obtain rfl : l' = k' := Option.some.inj (hl'.symm.trans hk')
  rw [latches_injective (hp.symm.trans (hsame.trans hp'))]
  rfl

end Sys2Proof.Machine
end

section
/-! Proofs about control words that compute alike (44_alu_operations.md R180) and the flags that the canonical rows can
produce (R181). -/

namespace Sys2Proof.Machine

/-! ### Aliases -/

theorem aliasTable_computes : ∀ row ∈ aliasTable, ∀ c ∈ row.1, ∀ x y, aluFn c x y = row.2 x y := by
  simp [aliasTable, aluFn_eq, ctlFlag, combined, conditioned]

/-- The function of a control word at a pair of operands, by its flags. -/
def outAt (c : Ctl) (p : Word × Word) : Word :=
  combined (ctlFlag c 1) (ctlFlag c 0) (conditioned (ctlFlag c 5) (ctlFlag c 4) p.1)
    (conditioned (ctlFlag c 3) (ctlFlag c 2) p.2)

theorem aluFn_eq_outAt (c : Ctl) (p : Word × Word) : aluFn c p.1 p.2 = outAt c p := aluFn_eq c p.1 p.2

/-- Two operands on which no two different functions agree. -/
def probe : Word × Word := (0x1234#16, 0xABCD#16)

/-- Control words that agree on the probe are the same or aliases: the table names every coincidence. -/
theorem alias_of_outAt_probe :
    ∀ c d : Ctl, outAt c probe = outAt d probe → c = d ∨ ∃ row ∈ aliasTable, c ∈ row.1 ∧ d ∈ row.1 := by
  decide

/-- Two control words compute the same function exactly when they are the same or stand in one row of the table. -/
theorem aluFn_eq_iff (c d : Ctl) :
    (∀ x y, aluFn c x y = aluFn d x y) ↔ c = d ∨ ∃ row ∈ aliasTable, c ∈ row.1 ∧ d ∈ row.1 := by
  constructor
  · intro h
    exact alias_of_outAt_probe c d (by rw [← aluFn_eq_outAt, ← aluFn_eq_outAt, h])
  · rintro (rfl | ⟨row, hrow, hc, hd⟩) x y
    · rfl
    · rw [aliasTable_computes row hrow c hc, aliasTable_computes row hrow d hd]

/-- The port checks of a row read the operands; the flags are the control word's and never fail. -/
theorem read_drive_rowOpts (l : Latches) (c : Ctl) (x y : Option Sig) :
    (l.drive (rowOpts c x y)).read = (do
      let xw ← need16 .x (some (x.getD l.x))
      let yw ← need16 .y (some (y.getD l.y))
      pure (AluIn.ofCtl c xw yw)) := rfl

/-- Rows of one function return the same outputs and raise the same faults, on every state. -/
theorem exec_alike {c d : Ctl} (h : ∀ x y, aluFn c x y = aluFn d x y) (a : Nat) (x y : Option Sig) (s : State) :
    outOf (exec (aluOfCtl c a x y) s) = outOf (exec (aluOfCtl d a x y) s) ∧
    faultOf (exec (aluOfCtl c a x y) s) = faultOf (exec (aluOfCtl d a x y) s) := by
  simp only [exec_aluOfCtl, aluRow, aluUpdate]
  cases s.alus[a]? with
  | none => simp only [element_none, and_self]
  | some l =>
    simp only [element_some, read_drive_rowOpts, check_bind]
    cases need16 .x (some (x.getD l.x)) with
    | error f => simp only [check_error, and_self]
    | ok xw =>
      cases need16 .y (some (y.getD l.y)) with
      | error f => simp only [check_ok, check_error, and_self]
      | ok yw =>
        have hout : (AluIn.ofCtl c xw yw).out = (AluIn.ofCtl d xw yw).out := h xw yw
        simp only [check_ok, pure, Except.pure, outOf_next_emit, AluIn.outputs, hout, faultOf, and_self]

/-- Settles O43: each row of the table shares its function, and no coincidence lies outside it. -/
theorem aliasesCannotBeToldApart : Obligations.AliasesCannotBeToldApart :=
  ⟨aliasTable_computes, rfl, aluFn_eq_iff, fun row hrow c hc d hd a x y s =>
    exec_alike ((aluFn_eq_iff c d).mpr (.inr ⟨row, hrow, hc, hd⟩)) a x y s⟩

/-! ### The flags of the canonical rows -/

/-- Operands among which every canonical row but the constants finds each of its three pairs of flags. -/
def flagOperands : List (Word × Word) :=
  [(0#16, 0#16), (1#16, 1#16), (0x8000#16, 0x8000#16), (-1#16, -1#16), (0#16, 1#16), (1#16, 0#16)]

/-- Every canonical row but the constants finds each of its three pairs of flags. -/
theorem flags_found :
    ∀ c ∈ [0x0C#6, 0x30#6, 0x0D#6, 0x31#6, 0x0F#6, 0x33#6, 0x1F#6, 0x37#6, 0x0E#6, 0x32#6, 0x02#6, 0x13#6, 0x07#6,
      0x00#6, 0x15#6],
    ∀ flags ∈ [(true, false), (false, true), (false, false)],
      ∃ p ∈ flagOperands, (decide (outAt c p = 0#16), (outAt c p).msb) = flags := by
  decide

/-- The flags of a word whose value is known. -/
theorem flags_of_aluFn {c : Ctl} {x y w : Word} (h : aluFn c x y = w) :
    (flagZr (aluFn c x y), flagNg (aluFn c x y)) = (decide (w = 0#16), w.msb) := by
  rw [h, flagZr_eq, flagNg_eq]

/-- No Update returns both flags set. -/
theorem outOf_aluOfCtl_ne (c : Ctl) (a : Nat) (x y : Option Sig) (s : State) (out : Word) :
    outOf (exec (aluOfCtl c a x y) s) ≠ some (.alu out true true) := by
  intro h
  cases hrun : exec (aluOfCtl c a x y) s with
  | next t =>
    obtain ⟨l, p, -, -, rfl⟩ := (exec_aluOfCtl_next ..).mp hrun
    rw [hrun, outOf_next_emit, AluIn.outputs, Option.some.injEq, Outputs.alu.injEq] at h
    obtain ⟨-, hzr, hng⟩ := h
    rw [flagNg_of_flagZr hzr] at hng
    cases hng
  | fault f => rw [hrun] at h; cases h
  | refused why => rw [hrun] at h; cases h

/-- Settles O44: the constants' flags are their own, the other rows find theirs among a few operands, and no value is
zero and negative. -/
theorem canonicalRowsProduceTheirFlags : Obligations.CanonicalRowsProduceTheirFlags := by
  refine ⟨fun x y => flags_of_aluFn (w := 0#16) ?_, fun x y => flags_of_aluFn (w := 1#16) ?_,
    fun x y => flags_of_aluFn (w := -1#16) ?_, fun c hc flags hflags => ?_, outOf_aluOfCtl_ne⟩
  · exact aliasTable_computes _ List.mem_cons_self 0x2A#6 (by decide) x y
  · simp [aluFn_eq, ctlFlag, combined, conditioned]
  · exact aliasTable_computes _ (List.mem_cons_of_mem _ List.mem_cons_self) 0x3A#6 (by decide) x y
  · obtain ⟨p, -, hp⟩ := flags_found c hc flags hflags
    exact ⟨p.1, p.2, (flags_of_aluFn (aluFn_eq_outAt c p)).trans hp⟩

end Sys2Proof.Machine
end

section
/-! Proofs about wiring (20_memory.md R53, 30_encoding.md R80) and about what a trace can say that has no meaning: an
argument is the Signal it carries, and what refers to nothing is refused by name. -/

namespace Sys2Proof.Machine

/-! ### Lists of checks -/

section
variable {α β ε : Type} {g : α → Except ε β}

/-- If each check of a list passes with the value beside it, the list passes with those values. -/
theorem mapM_eq_ok {l : List α} {vs : List β} (h : List.Forall₂ (fun x v => g x = .ok v) l vs) :
    l.mapM g = .ok vs := by
  induction h with
  | nil => rfl
  | cons hx _ ih => rw [List.mapM_cons, hx, ih]; rfl

/-- The first check that fails decides. -/
theorem mapM_eq_error_of_first {pre post : List α} {x : α} {e : ε} (hpre : ∀ y ∈ pre, ∃ v, g y = .ok v)
    (hx : g x = .error e) : (pre ++ x :: post).mapM g = .error e := by
  induction pre with
  | nil => rw [List.nil_append, List.mapM_cons, hx]; rfl
  | cons y pre ih =>
    obtain ⟨v, hv⟩ := hpre y List.mem_cons_self
    rw [List.cons_append, List.mapM_cons, hv, ih fun z hz => hpre z (List.mem_cons_of_mem y hz)]
    rfl

/-- If a list passes, each of its checks has passed. -/
theorem ok_of_mapM_eq_ok {l : List α} {vs : List β} (h : l.mapM g = .ok vs) {x : α} (hx : x ∈ l) :
    ∃ v, g x = .ok v := by
  obtain ⟨pre, post, rfl⟩ := List.append_of_mem hx
  clear hx
  induction pre generalizing vs with
  | nil =>
    rw [List.nil_append, List.mapM_cons, bind_eq_ok] at h
    obtain ⟨v, hv, -⟩ := h
    exact ⟨v, hv⟩
  | cons y pre ih =>
    rw [List.cons_append, List.mapM_cons, bind_eq_ok] at h
    obtain ⟨_, -, hrest⟩ := h
    obtain ⟨vs', hvs', -⟩ := (bind_eq_ok ..).mp hrest
    exact ih hvs'

end

/-! ### Arguments that carry a Signal -/

section
variable {outs : List Outputs}

theorem needSrc_carries {x : Src} {g : Sig} (h : SrcCarries outs x g) : needSrc outs x = .ok g := by
  cases x with
  | sig g' => rw [show g = g' from h]; rfl
  | out back port =>
    obtain ⟨o, ho, hport⟩ := h
    simp [needSrc, Src.resolve, ho, hport]
  | bitOf back i =>
    obtain ⟨o, w, ho, hport, rfl⟩ := h
    simp [needSrc, Src.resolve, ho, hport]

/-- The bits of a word, bundled, are the word. -/
theorem bundle_bits (p : Port) (w : Word) :
    bundle p ((List.range 16).map fun i => .bit (w.getLsbD i)) = .ok w := by
  have hbits : ((List.range 16).map fun i => Sig.bit (w.getLsbD i)).mapM (fun g => need1 p (some g)) =
      .ok ((List.range 16).map fun i => w.getLsbD i) :=
    mapM_eq_ok (List.forall₂_map_left_iff.mpr (List.forall₂_map_right_iff.mpr
      (List.forall₂_same.mpr fun _ _ => need1_bit ..)))
  have hword : (ofLanes fun i => ((List.range 16).map fun i => w.getLsbD i).getD i false) = w :=
    ofLanes_eq _ _ fun i hi => by simp [List.getD, hi]
  rw [bundle, hbits]
  exact congrArg Except.ok hword

/-- An argument puts the Signal it carries on its port. -/
theorem resolve_carries (p : Port) {a : Arg} {g : Sig} (h : ArgCarries outs a g) : resolve outs p a = .ok (some g) := by
  cases a with
  | absent => cases h
  | src x => rw [resolve, needSrc_carries h]; rfl
  | bundle lanes =>
    obtain ⟨w, rfl, hlength, hlanes⟩ := h
    have hsigs : lanes.mapM (needSrc outs) = .ok ((List.range 16).map fun i => .bit (w.getLsbD i)) := by
      refine mapM_eq_ok (List.forall₂_iff_get.mpr ⟨by simp [hlength], fun i hi _ => ?_⟩)
      simpa using needSrc_carries (hlanes i _ (List.getElem?_eq_getElem hi))
    rw [resolve, hsigs]
    simp [bundle_bits, faulting]

/-- A bundle that after some bits has a bad Signal raises that Signal's failure at the port it is wired to. -/
theorem resolve_bundle_error {p : Port} {lanes : List Src} {good : List Bool} {bad : Sig} {rest : List Sig} {f : Fault}
    (hlanes : List.Forall₂ (SrcCarries outs) lanes (good.map Sig.bit ++ bad :: rest))
    (hbad : need1 p (some bad) = .error f) : resolve outs p (.bundle lanes) = .error (.fault f) := by
  have hsigs : lanes.mapM (needSrc outs) = .ok (good.map Sig.bit ++ bad :: rest) :=
    mapM_eq_ok (hlanes.imp fun _ _ => needSrc_carries)
  have hbundle : bundle p (good.map Sig.bit ++ bad :: rest) = .error f := by
    rw [bundle, mapM_eq_error_of_first (g := fun g => need1 p (some g)) _ hbad]
    · rfl
    · intro g hg
      obtain ⟨b, -, rfl⟩ := List.mem_map.mp hg
      exact ⟨b, need1_bit ..⟩
  rw [resolve, hsigs]
  simp [hbundle, faulting]

end

/-- A line stops at the first of its arguments that does not resolve, with a fault if it is one. -/
theorem runLine_fault_of_resolve {s : State} {l : Line} {pre post : List (Port × Arg)} {p : Port} {a : Arg} {f : Fault}
    (hl : lineArgs l = pre ++ (p, a) :: post) (hpre : ∀ arg ∈ pre, Wired s arg)
    (ha : resolve s.outs p a = .error (.fault f)) : runLine l s = .fault f := by
  rw [runLine, issue_error s l pre post p a _ hl hpre ha]

/-- The same, with a refusal if it is one. -/
theorem runLine_refused_of_resolve {s : State} {l : Line} {pre post : List (Port × Arg)} {p : Port} {a : Arg}
    {why : Refusal} (hl : lineArgs l = pre ++ (p, a) :: post) (hpre : ∀ arg ∈ pre, Wired s arg)
    (ha : resolve s.outs p a = .error (.refused why)) : runLine l s = .refused why := by
  rw [runLine, issue_error s l pre post p a _ hl hpre ha]

/-- Settles O59: an argument resolves to the Signal it carries, outputs stand on their element's ports, and a bundle
fails at its first bad lane. -/
theorem wiringSplitsAndBundles : Obligations.WiringSplitsAndBundles := by
  refine ⟨fun s l change h => runLine_rewire change s l fun p a => ?_, fun w b zr ng p => ?_,
    fun s l pre post p good bad rest lanes hl hpre hlanes => ⟨?_, ?_⟩⟩
  · obtain hsame | ⟨g, hcarries, hchange⟩ := h p a
    · rw [hsame]
    · rw [hchange, resolve_carries p hcarries]; rfl
  · refine ⟨rfl, rfl, rfl, rfl, rfl, by cases p <;> rfl, fun hp => ?_⟩
    cases p
    · exact absurd rfl hp
    · exact ⟨rfl, rfl⟩
    · exact ⟨rfl, rfl⟩
  · rintro rfl
    exact runLine_fault_of_resolve hl hpre (resolve_bundle_error hlanes rfl)
  · rintro w rfl
    exact runLine_fault_of_resolve hl hpre (resolve_bundle_error hlanes rfl)

/-! ### References to nothing -/

section
variable {outs : List Outputs}

theorem needSrc_error {x : Src} {e : Stop} (h : needSrc outs x = .error e) : e = .refused .noSuchOutput := by
  unfold needSrc at h
  split at h
  · cases h
  · cases h; rfl

theorem needSrc_missing {x : Src} (h : SrcMissing outs x) : needSrc outs x = .error (.refused .noSuchOutput) := by
  have hnone : Src.resolve outs x = none := by
    cases x with
    | sig g => cases h
    | out back port => exact Option.bind_eq_none_iff.mpr h
    | bitOf back i =>
      rw [Src.resolve]
      split
      case h_1 w hw =>
        obtain ⟨o, ho, hport⟩ := Option.bind_eq_some_iff.mp hw
        exact absurd hport (h o ho w)
      case h_2 => rfl
  rw [needSrc, hnone]

theorem resolve_missing (p : Port) {a : Arg} (h : ArgMissing outs a) :
    resolve outs p a = .error (.refused .noSuchOutput) := by
  cases a with
  | absent => cases h
  | src x => rw [resolve, needSrc_missing h]; rfl
  | bundle lanes =>
    obtain ⟨x, hx, hmissing⟩ := h
    rw [resolve]
    cases hsigs : lanes.mapM (needSrc outs) with
    | ok sigs =>
      obtain ⟨g, hg⟩ := ok_of_mapM_eq_ok hsigs hx
      rw [needSrc_missing hmissing] at hg
      cases hg
    | error e =>
      obtain ⟨y, -, hy⟩ := mapM_eq_error hsigs
      rw [needSrc_error hy]
      rfl

end

/-! ### Refusals of operations -/

section
variable {α : Type} {k : α → Outcome} {why : Refusal}

theorem check_refused {c : Except Fault α} : check c k = .refused why ↔ ∃ v, c = .ok v ∧ k v = .refused why := by
  cases c <;> simp

theorem element_refused {found : Option α} : element found k = .refused why ↔
    (found = none ∧ why = .noSuchElement) ∨ ∃ e, found = some e ∧ k e = .refused why := by
  cases found <;> simp [eq_comm]

theorem slotted_refused {s : State} {fwd : Option Fwd} {next : Outcome} : slotted s fwd next = .refused why ↔
    (slotOk s.slots fwd = false ∧ why = .noSuchSlot) ∨ (slotOk s.slots fwd = true ∧ next = .refused why) := by
  unfold slotted
  split <;> simp [*, eq_comm]

end

section
variable {s : State}

theorem bitUpdate_missing {b : Nat} (h : s.bits.length ≤ b) (input load : Option Sig) :
    bitUpdate b input load s = .refused .noSuchElement := by
  rw [bitUpdate, List.getElem?_eq_none h, element_none]

theorem bitTick_missing {b : Nat} (h : s.bits.length ≤ b) : bitTick b s = .refused .noSuchElement := by
  rw [bitTick, List.getElem?_eq_none h, element_none]

theorem regUpdate_missing {r : Nat} (h : s.regs.length ≤ r) (word load : Option Sig) (fwd : Option Fwd) :
    regUpdate r word load fwd s = .refused .noSuchElement := by
  rw [regUpdate, List.getElem?_eq_none h, element_none]

theorem regTick_missing {r : Nat} (h : s.regs.length ≤ r) : regTick r s = .refused .noSuchElement := by
  rw [regTick, List.getElem?_eq_none h, element_none]

theorem aluUpdate_missing {a : Nat} (h : s.alus.length ≤ a) (o : AluOpts) :
    aluUpdate a o s = .refused .noSuchElement := by
  rw [aluUpdate, List.getElem?_eq_none h, element_none]

/-- Forwarding to a slot that is not below SLOTS is refused before any port is checked. -/
theorem regUpdate_noSuchSlot {r : Nat} {f : Fwd} (hr : r < s.regs.length) (hslot : s.slots ≤ f.slot)
    (word load : Option Sig) : regUpdate r word load (some f) s = .refused .noSuchSlot := by
  rw [regUpdate, List.getElem?_eq_getElem hr, element_some]
  exact slotted_refused.mpr (.inl ⟨decide_eq_false (Nat.not_lt.mpr hslot), rfl⟩)

/-- A line whose element is missing is refused, once its arguments have resolved. -/
theorem runLine_elementMissing {l : Line} (h : ElementMissing s l) (hwired : ∀ arg ∈ lineArgs l, Wired s arg) :
    runLine l s = .refused .noSuchElement := by
  cases l with
  | bitUpdate b input load =>
    obtain ⟨i, hi⟩ := hwired (.input, input) (by simp [lineArgs])
    obtain ⟨v, hv⟩ := hwired (.loadEnable, load) (by simp [lineArgs])
    rw [runLine_bitUpdate hi hv, bitUpdate_missing h]
  | regUpdate r word load fwd =>
    obtain ⟨w, hw⟩ := hwired (.word, word) (by simp [lineArgs])
    obtain ⟨v, hv⟩ := hwired (.loadEnable, load) (by simp [lineArgs])
    rw [runLine_regUpdate hw hv, regUpdate_missing h]
  | aluUpdate a x y zx nx zy ny f no =>
    simp only [lineArgs, List.forall_mem_cons, Wired] at hwired
    obtain ⟨⟨_, hx⟩, ⟨_, hy⟩, ⟨_, hzx⟩, ⟨_, hnx⟩, ⟨_, hzy⟩, ⟨_, hny⟩, ⟨_, hf⟩, ⟨_, hno⟩, -⟩ := hwired
    have hnone : s.alus[a]? = none := List.getElem?_eq_none h
    simp [runLine, issue, hx, hy, hzx, hnx, hzy, hny, hf, hno, issueAlu, hnone, needElement]
  | bitTick b => exact bitTick_missing h
  | regTick r => exact regTick_missing h
  | _ => cases h

/-- An operation that is refused names an element or a slot that the circuit does not have. -/
theorem exec_refused {i : Instr} {why : Refusal} (h : exec i s = .refused why) :
    i.wf s.circuit = false ∧ (why = .noSuchElement ∨ why = .noSuchSlot) := by
  cases form i with
  | gate ports op run =>
    obtain ⟨result, hrun⟩ := run
    obtain ⟨_, -, ho⟩ := check_refused.mp (hrun s ▸ h)
    cases ho
  | bit b input load op =>
    rw [op, exec_bit] at h
    obtain ⟨hnone, rfl⟩ | ⟨_, -, hk⟩ := element_refused.mp h
    · have hb : ¬ b < s.bits.length := Nat.not_lt.mpr (List.getElem?_eq_none_iff.mp hnone)
      exact ⟨by cases load <;> subst op <;> exact decide_eq_false hb, .inl rfl⟩
    · obtain ⟨_, -, hk⟩ := check_refused.mp hk
      obtain ⟨_, -, hk⟩ := check_refused.mp hk
      cases hk
  | reg r word fwd load op =>
    rw [op, exec_reg] at h
    obtain ⟨hnone, rfl⟩ | ⟨c, -, hk⟩ := element_refused.mp h
    · have hr : ¬ r < s.regs.length := Nat.not_lt.mpr (List.getElem?_eq_none_iff.mp hnone)
      exact ⟨by cases load <;> subst op <;> simp [Instr.wf, State.circuit, hr], .inl rfl⟩
    · obtain ⟨hslot, rfl⟩ | ⟨-, hk⟩ := slotted_refused.mp hk
      · exact ⟨by cases load <;> subst op <;> simp [Instr.wf, State.circuit, fwdWf, hslot], .inr rfl⟩
      · obtain ⟨_, -, hk⟩ := check_refused.mp hk
        obtain ⟨_, -, hk⟩ := check_refused.mp hk
        obtain ⟨_, -, hk⟩ := check_refused.mp hk
        cases hk
  | bitTick b op =>
    subst op
    obtain ⟨hnone, rfl⟩ | ⟨_, -, hk⟩ := element_refused.mp h
    · exact ⟨decide_eq_false (Nat.not_lt.mpr (List.getElem?_eq_none_iff.mp hnone)), .inl rfl⟩
    · cases hk
  | regTick r op =>
    subst op
    obtain ⟨hnone, rfl⟩ | ⟨_, -, hk⟩ := element_refused.mp h
    · exact ⟨decide_eq_false (Nat.not_lt.mpr (List.getElem?_eq_none_iff.mp hnone)), .inl rfl⟩
    · cases hk
  | alu c a x y op =>
    rw [op, exec_aluOfCtl] at h
    obtain ⟨hnone, rfl⟩ | ⟨_, -, hk⟩ := element_refused.mp h
    · rw [op, wf_aluOfCtl]
      exact ⟨decide_eq_false (Nat.not_lt.mpr (List.getElem?_eq_none_iff.mp hnone)), .inl rfl⟩
    · obtain ⟨_, -, hk⟩ := check_refused.mp hk
      cases hk

end

/-- Settles O60: the trace by its fetch, references by the arguments in order, elements and slots by the operations that
look for them. -/
theorem illFormedTracesAreRefused : Obligations.IllFormedTracesAreRefused := by
  refine ⟨fun s h => ?_, fun s b bytes e h hread => ?_,
    fun s l pre post p a hl hpre ha => runLine_refused_of_resolve hl hpre (resolve_missing p ha),
    fun s l => runLine_elementMissing,
    fun s r word fwd h => ⟨regUpdate_missing h .., regUpdate_missing h .., regTick_missing h⟩,
    fun s b input h => ⟨bitUpdate_missing h .., bitUpdate_missing h .., bitTick_missing h⟩,
    fun s c a x y h => ?_,
    fun s r word f hr hslot => ⟨regUpdate_noSuchSlot hr hslot .., regUpdate_noSuchSlot hr hslot ..⟩,
    fun s r word load f hr hslot ⟨w, hw⟩ ⟨v, hv⟩ => ?_, fun s i why => exec_refused⟩
  · simp only [step, fetch, h]
  · simp only [step, fetch, h, hread]
  · rw [exec_aluOfCtl]
    exact aluUpdate_missing h _
  · rw [runLine_regUpdate hw hv]
    exact regUpdate_noSuchSlot hr hslot w v

end Sys2Proof.Machine
end
